-- ==== Sys2Proof/Word.lean ====
section
/-! DEFINITION. The word types of TLX2048 and the closed sets of names the spec fixes: boards,
patterns, ranks, command and response words, the five tables and the four directions. -/

namespace Sys2Proof

/-- A serialised byte (20_memory.md R44). -/
abbrev Byte := BitVec 8

/-- A rank, one cell of a board: 0 is an empty cell, `r` the tile of value `2^r` (10_state.md R21). -/
abbrev Rank := BitVec 4

/-- A RowPattern: the four nibbles of a row or a column, nibble 0 least significant (10_state.md R24). -/
abbrev Pattern := BitVec 16

/-- A PackedBoard: sixteen nibbles, cell `(row, col)` at nibble `4*row + col` (10_state.md R21). -/
abbrev Board := BitVec 64

/-- The 64-bit pattern of an IEEE 754 binary64 value (00_scope.md R13, 42_eval.md R130). -/
abbrev F64 := BitVec 64

/-- The `op` field of a command word (30_encoding.md R61). -/
abbrev Opcode := BitVec 8

/-- The `status` field of a response word (30_encoding.md R63). -/
abbrev Status := BitVec 8

/-- A command word, `op` in bits 7:0 and `board` in bits 71:8 (30_encoding.md R61). -/
abbrev CmdWord := BitVec 72

/-- A response word, `status` in bits 7:0 and `data` in bits 71:8 (30_encoding.md R63). -/
abbrev RspWord := BitVec 72

/-- The five table address spaces (20_memory.md R40). -/
inductive Table where
  | rowl
  | rowr
  | colu
  | cold
  | heur
  deriving DecidableEq, Repr

/-- The entry width of a table (20_memory.md R41). -/
abbrev Table.width : Table → Nat
  | .rowl => 16
  | .rowr => 16
  | .colu => 64
  | .cold => 64
  | .heur => 64

/-- The entries of the five tables by table and index: what `MemRead(T, idx)` gives (00_scope.md R13).
Every index is a 16-bit pattern, so no read is out of range (20_memory.md R43). -/
abbrev TableReader := (t : Table) → Pattern → BitVec t.width

/-- A move direction (10_state.md R25). -/
inductive Direction where
  | up
  | down
  | left
  | right
  deriving DecidableEq, Repr

/-- The executor index of a direction: up 0, down 1, left 2, right 3 (10_state.md R25). -/
def Direction.index : Direction → BitVec 2
  | .up => 0
  | .down => 1
  | .left => 2
  | .right => 3

/-- The direction of an executor index (10_state.md R25). -/
def Direction.ofIndex (i : BitVec 2) : Direction :=
  if i = 0 then .up else if i = 1 then .down else if i = 2 then .left else .right

end Sys2Proof
end

