-- ==== Sys2Proof/Machine/Bits.lean ====
section
/-! DEFINITION. The nibble and row accessors of 00_scope.md R11, and the fixed rearrangements of nibbles:
reversal, spreading, transposition and mirroring. -/

namespace Sys2Proof.Machine

/-- `nib(v, i) = v[4*i+3 : 4*i]`, nibble `i` of any word (00_scope.md R11). -/
def nib {w : Nat} (v : BitVec w) (i : Nat) : Rank := v.extractLsb' (4 * i) 4

/-- `row(b, r) = b[16*r+15 : 16*r]` (00_scope.md R11). -/
def row (b : Board) (r : Nat) : Pattern := b.extractLsb' (16 * r) 16

/-- `cell(b, r, c) = nib(b, 4*r + c)`, the rank at row `r` and column `c` (00_scope.md R11). -/
def cell (b : Board) (r c : Nat) : Rank := nib b (4 * r + c)

/-- `mk4(n0,n1,n2,n3) = n0 | n1<<4 | n2<<8 | n3<<12` (00_scope.md R11). -/
def mk4 (n0 n1 n2 n3 : Rank) : Pattern :=
  n0.setWidth 16 ||| (n1.setWidth 16 <<< 4) ||| (n2.setWidth 16 <<< 8) ||| (n3.setWidth 16 <<< 12)

/-- `mkboard(p0,p1,p2,p3) = p0 | p1<<16 | p2<<32 | p3<<48` (00_scope.md R11). -/
def mkboard (p0 p1 p2 p3 : Pattern) : Board :=
  p0.setWidth 64 ||| (p1.setWidth 64 <<< 16) ||| (p2.setWidth 64 <<< 32) ||| (p3.setWidth 64 <<< 48)

/-- `rev(p)`: the pattern with its nibble order reversed, the bits inside each nibble keeping their order
(40_table_generator.md R88, 90_conflicts.md C4). -/
def rev (p : Pattern) : Pattern := mk4 (nib p 3) (nib p 2) (nib p 1) (nib p 0)

/-- The shift-and-mask form of `rev` (40_table_generator.md R88, second line). -/
def revByShifts (p : Pattern) : Pattern :=
  (p >>> 12) ||| ((p >>> 4) &&& 0x00F0#16) ||| ((p <<< 4) &&& 0x0F00#16) ||| ((p <<< 12) &&& 0xF000#16)

/-- `spread(p)`: nibble `k` of the pattern at bit `16k` of a 64-bit word (40_table_generator.md R89). -/
def spread (p : Pattern) : BitVec 64 :=
  (nib p 0).setWidth 64 ||| ((nib p 1).setWidth 64 <<< 16) ||| ((nib p 2).setWidth 64 <<< 32) |||
    ((nib p 3).setWidth 64 <<< 48)

/-- Column `c` of a board as a pattern, row 0 in nibble 0 (00_scope.md R15, 20_memory.md R43). -/
def column (b : Board) (c : Nat) : Pattern := mk4 (cell b 0 c) (cell b 1 c) (cell b 2 c) (cell b 3 c)

/-- `transpose(b)`: the board whose cell `(r, c)` is cell `(c, r)` of `b`, so row `r` of the result is
column `r` of `b` (43_xpose.md R141). -/
def transpose (b : Board) : Board := mkboard (column b 0) (column b 1) (column b 2) (column b 3)

/-- The two-stage mask sequence for the transpose (43_xpose.md R143). R141 is the normative rule, which
`transpose` follows. -/
def transposeByMasks (x : Board) : Board :=
  let a1 := x &&& 0xF0F00F0FF0F00F0F#64
  let a2 := x &&& 0x0000F0F00000F0F0#64
  let a3 := x &&& 0x0F0F00000F0F0000#64
  let a := a1 ||| (a2 <<< 12) ||| (a3 >>> 12)
  let b1 := a &&& 0xFF00FF0000FF00FF#64
  let b2 := a &&& 0x00FF00FF00000000#64
  let b3 := a &&& 0x00000000FF00FF00#64
  b1 ||| (b2 >>> 24) ||| (b3 <<< 24)

/-- `mirror(b)`: every row reversed (41_move.md R116). -/
def mirror (b : Board) : Board := mkboard (rev (row b 0)) (rev (row b 1)) (rev (row b 2)) (rev (row b 3))

/-- `flip(b)`: the order of the rows reversed (95_test_vectors.md part 5). -/
def flip (b : Board) : Board := mkboard (row b 3) (row b 2) (row b 1) (row b 0)

/-- The four nibbles of a pattern in index order (40_table_generator.md R85). -/
def nibbles (p : Pattern) : List Rank := [nib p 0, nib p 1, nib p 2, nib p 3]

/-- The board of a grid of sixteen ranks, cell `(0,0)` first (00_scope.md R12, 30_encoding.md R70). Cells
past the end of a short list are empty. -/
def gridBoard (g : List Rank) : Board :=
  let p (r : Nat) : Pattern :=
    mk4 (g.getD (4 * r) 0) (g.getD (4 * r + 1) 0) (g.getD (4 * r + 2) 0) (g.getD (4 * r + 3) 0)
  mkboard (p 0) (p 1) (p 2) (p 3)

end Sys2Proof.Machine
end

