-- ==== Sys2Proof/Machine/Operands.lean ====
section
/-! DEFINITION. The operand forms: the one addressing mode, a 16-bit slice of a board or of its transpose
(20_memory.md R43, R45). The board operand itself is taken from the command word unchanged
(30_encoding.md R67, `cmdBoard`). -/

namespace Sys2Proof.Machine

/-- The index of a row access, `row(b, r)` (20_memory.md R43). -/
def rowIndex (b : Board) (r : Nat) : Pattern := row b r

/-- The index of a column access, `row(transpose(b), c)` (20_memory.md R43). -/
def colIndex (b : Board) (c : Nat) : Pattern := row (transpose b) c

/-- A table entry of a row, laid at that row's 16 bits: `zext_64(entry) << (16*k)` (41_move.md R113). -/
def atRow (k : Nat) (delta : BitVec 16) : Board := delta.setWidth 64 <<< (16 * k)

/-- A pre-spread table entry of a column, laid on that column's nibbles: `entry << (4*c)` (41_move.md R112). -/
def atColumn (c : Nat) (delta : BitVec 64) : Board := delta <<< (4 * c)

end Sys2Proof.Machine
end

