-- ==== Sys2Proof/Syntax.lean ====
section
/-! DEFINITION. The syntax of TLX2048: the six commands of spec/opcode_table.json, the turns that the
host and the block's agents take, and the command-stream notation of 30_encoding.md R70 and R71. -/

namespace Sys2Proof

/-- The six commands (30_encoding.md R62), each with its one operand, the 64-bit board taken unchanged
from the command word (30_encoding.md R67). -/
inductive Instr where
  | moveUp (board : Board)
  | moveDown (board : Board)
  | moveLeft (board : Board)
  | moveRight (board : Board)
  | eval (board : Board)
  | xpose (board : Board)
  deriving DecidableEq, Repr

/-- The board operand of a command (30_encoding.md R67). -/
def Instr.board : Instr → Board
  | .moveUp b => b
  | .moveDown b => b
  | .moveLeft b => b
  | .moveRight b => b
  | .eval b => b
  | .xpose b => b

/-- What a decoded command word is: one of the six commands or `illegal(op)` (30_encoding.md R69). -/
inductive Decoded where
  | legal (i : Instr)
  | illegal (op : Opcode)
  deriving DecidableEq, Repr

/-- Why a byte string is not one command: it is not nine bytes long (20_memory.md R44, 30_encoding.md R60).
Every nine-byte string is a command word, legal or illegal. -/
inductive BytesRejected where
  | wrongLength (n : Nat)
  deriving DecidableEq, Repr

/-- One event of a run. The agents are the ports and BUILD, and the host acts on the block only by offering
command words, taking responses and driving reset (00_scope.md R14, 70_reset_and_hazards.md R192). Which
event comes next is data of the state, so a statement about every state is about every interleaving. -/
inductive Turn where
  /-- The host puts a command word at the end of what it offers on port `p`. -/
  | offer (p : Nat) (w : CmdWord)
  /-- The host takes the oldest response of port `p`. -/
  | take (p : Nat)
  /-- The host asserts reset (70_reset_and_hazards.md R180). -/
  | assertReset
  /-- The host releases reset (70_reset_and_hazards.md R180). -/
  | releaseReset
  /-- BUILD makes one visit (40_table_generator.md R80). -/
  | build
  /-- Port `p`'s agent accepts and executes the offered command, if it may. -/
  | serve (p : Nat)
  deriving DecidableEq, Repr

/-- The port a turn names. -/
def Turn.port? : Turn → Option Nat
  | .offer p _ => some p
  | .take p => some p
  | .assertReset => none
  | .releaseReset => none
  | .build => none
  | .serve p => some p

/-- One line of a command stream (30_encoding.md R70) with the two pseudo-instructions of R71. -/
inductive AsmLine where
  /-- `<mnemonic> <board>`. -/
  | command (i : Instr)
  /-- `move <d>, <board>`, a synonym of the MOVE command with `op = d`. -/
  | moveDir (d : Direction) (board : Board)
  /-- `nop`, a synonym of `xpose 0`. -/
  | nop
  /-- `.op 0x<hh> <board>`. -/
  | rawOp (op : Opcode) (board : Board)
  /-- `port <p>:` directs the following commands to port `p`. -/
  | port (p : Nat)
  deriving DecidableEq, Repr

end Sys2Proof
end

