-- ==== Sys2Proof/Decode.lean ====
section
/-! DEFINITION. The command decoder, total on words and on byte strings, then the encoder written from the
same map, the response word's fields, and the byte order of a serialised word. -/

namespace Sys2Proof

/-- The `op` field, `CMDW[7:0]` (30_encoding.md R61). -/
def cmdOp (w : CmdWord) : Opcode := w.extractLsb' 0 8

/-- The `board` field, `CMDW[71:8]` (30_encoding.md R61). -/
def cmdBoard (w : CmdWord) : Board := w.extractLsb' 8 64

/-- The opcode map: all 256 values of `op` (30_encoding.md R62). The whole byte is compared, so a value
whose low three bits name a command and whose bits 7:3 are not zero is illegal (R65). -/
def decodeOp (op : Opcode) (board : Board) : Decoded :=
  if op = 0x00#8 then .legal (.moveUp board)
  else if op = 0x01#8 then .legal (.moveDown board)
  else if op = 0x02#8 then .legal (.moveLeft board)
  else if op = 0x03#8 then .legal (.moveRight board)
  else if op = 0x04#8 then .legal (.eval board)
  else if op = 0x05#8 then .legal (.xpose board)
  else .illegal op

/-- The decoder: total on the 2^72 command words, and the choice of command reads only `CMDW[7:0]`
(30_encoding.md R69). -/
def decodeWord (w : CmdWord) : Decoded := decodeOp (cmdOp w) (cmdBoard w)

/-- The opcode of a command (30_encoding.md R62). -/
def Instr.opcode : Instr → Opcode
  | .moveUp _ => 0x00#8
  | .moveDown _ => 0x01#8
  | .moveLeft _ => 0x02#8
  | .moveRight _ => 0x03#8
  | .eval _ => 0x04#8
  | .xpose _ => 0x05#8

/-- A command word from its two fields, `{board, op}` (30_encoding.md R61). -/
def cmdWord (op : Opcode) (board : Board) : CmdWord := board ++ op

/-- The encoder of a command (30_encoding.md R61, R62). -/
def encode (i : Instr) : CmdWord := cmdWord i.opcode i.board

/-- A response word from its two fields, `{data, status}` (30_encoding.md R63). -/
def rspWord (status : Status) (data : BitVec 64) : RspWord := data ++ status

/-- The `status` field of a response, `RSPW[7:0]` (30_encoding.md R63). -/
def rspStatus (w : RspWord) : Status := w.extractLsb' 0 8

/-- The `data` field of a response, `RSPW[71:8]` (30_encoding.md R63). -/
def rspData (w : RspWord) : BitVec 64 := w.extractLsb' 8 64

/-- A 72-bit word as nine bytes, byte `j` the bits `8j+7:8j`, byte 0 first (20_memory.md R44,
30_encoding.md R72). -/
def wordToBytes (w : BitVec 72) : List Byte :=
  (List.range 9).map fun j => w.extractLsb' (8 * j) 8

/-- The number that a byte string carries, byte 0 least significant (20_memory.md R44). -/
def bytesToNat : List Byte → Nat
  | [] => 0
  | b :: bs => b.toNat + 256 * bytesToNat bs

/-- The 72-bit word that nine bytes carry. Any other number of bytes is no word (30_encoding.md R60, R68). -/
def bytesToWord (bs : List Byte) : Except BytesRejected (BitVec 72) :=
  if bs.length = 9 then .ok (BitVec.ofNat 72 (bytesToNat bs)) else .error (.wrongLength bs.length)

/-- The decoder on bytes, total: nine bytes are a command, legal or illegal, and every other length is
rejected by name. -/
def decodeBytes (bs : List Byte) : Except BytesRejected Decoded :=
  match bytesToWord bs with
  | .ok w => .ok (decodeWord w)
  | .error e => .error e

/-- The encoder on bytes (20_memory.md R44, 30_encoding.md R72). -/
def encodeBytes (i : Instr) : List Byte := wordToBytes (encode i)

/-- The word of `nbits` bits that spec/opcode_table.json numbers from bit 0, with every bit above `nbits`
zero. -/
def tableWord (nbits w : Nat) : CmdWord := BitVec.ofNat 72 (w % 2 ^ nbits)

/-- The instruction that the decoder reads from the bytes of a word of the opcode table. -/
def decodeTableWord (nbits w : Nat) : Option Instr :=
  match decodeBytes (wordToBytes (tableWord nbits w)) with
  | .ok (.legal i) => some i
  | .ok (.illegal _) => none
  | .error _ => none

end Sys2Proof
end

