-- ==== Sys2Proof/Machine/Flags.lean ====
section
/-! DEFINITION. TLX2048 has no flags (10_state.md R29): a response carries a status that says only whether the
opcode was legal (30_encoding.md R64), and a move that changes nothing is found by comparing boards
(41_move.md R117). -/

namespace Sys2Proof.Machine

/-- Status `OK`: the opcode was legal (30_encoding.md R64). -/
def statusOk : Status := 0x00#8

/-- Status `ILLEGAL_OP` (30_encoding.md R64). -/
def statusIllegalOp : Status := 0x01#8

/-- A response word the block can produce: status OK, or ILLEGAL_OP with zero data
(30_encoding.md R63, R64). -/
def legalResponse (w : RspWord) : Bool :=
  rspStatus w == statusOk || (rspStatus w == statusIllegalOp && rspData w == 0)

/-- The host's test for a no-op move, the identity of the result and the operand (41_move.md R117). The block
computes no such flag. -/
def isNoOp (operand result : Board) : Bool := operand == result

end Sys2Proof.Machine
end

