-- ==== Sys2Proof/Config.lean ====
section
/-! DEFINITION. The implementation parameters of 00_scope.md R9 as one configuration record with the
spec's defaults, and the free values: what the spec leaves open and no proof may evaluate. -/

namespace Sys2Proof

/-- The configuration record (00_scope.md R9, decision D24): fixed when the block is built, neither
readable nor writable through a port (10_state.md R30).
`BOARD_W`, `NIB_W`, `ROWS`, `COLS`, `ROW_W`, `TBL_N`, `RANK_MAX`, `CMD_W`, `RSP_W` and `FLOAT` are the
types of Word.lean, since every rule of the spec is written for those values. -/
structure Config where
  /-- `W_BASE`, the constant term of the heuristic. -/
  wBase : Nat
  /-- `W_EMPTY`, the weight of `empty`. -/
  wEmpty : Nat
  /-- `W_MERGES`, the weight of `merges`. -/
  wMerges : Nat
  /-- `W_MONO`, the weight of the monotonicity term. -/
  wMono : Nat
  /-- `W_SUM`, the weight of `sum`. -/
  wSum : Nat
  /-- `P_MONO`, the exponent of the monotonicity term. -/
  pMono : Nat
  /-- Twice `P_SUM`, the exponent of `sum` (3.5 is kept as 7 halves). `POW35` is the table of the powers,
  and `Config.pow35Nearest` ties the two together. -/
  pSumHalves : Nat
  /-- `POW35`, the sixteen binary64 values of `rank^3.5` (40_table_generator.md R95). -/
  pow35 : Vector F64 16
  /-- `MERGE_SKIP_EMPTY`: true when an empty cell between two equal tiles does not break a run
  (40_table_generator.md R98, decision D17). -/
  mergeSkipEmpty : Bool
  /-- `NPORTS`, the number of ports (decision D27). -/
  nports : Nat
  /-- `MAX_OUTSTANDING`, the most responses a port's queue may hold; `none` is an unbounded queue, which
  10_state.md R34 allows (decision D26). -/
  maxOutstanding : Option Nat
  deriving DecidableEq, Repr

namespace Config

/-- The default contents of `POW35`, bit for bit (40_table_generator.md R95). -/
def pow35Default : Vector F64 16 :=
  #v[0x0000000000000000#64, 0x3FF0000000000000#64, 0x4026A09E667F3BCD#64, 0x404761F7B40A80B0#64,
     0x4060000000000000#64, 0x40717822CDF264EC#64, 0x408088B7E0E7B3FF#64, 0x408C5BF10C89AB81#64,
     0x4096A09E667F3BCD#64, 0x40A1160000000000#64, 0x40A8B48E29793D2F#64, 0x40B13E6D76EDD525#64,
     0x40B761F7B40A80B0#64, 0x40BEF1656A3AEF1F#64, 0x40C40D8DCEA95665#64, 0x40C987A8CE394908#64]

/-- The default configuration record (00_scope.md R9). `MAX_OUTSTANDING` is OPEN there: DESIGN CHOICE,
unbounded, which 10_state.md R34 allows (notes/assumptions/4.md). -/
def default : Config where
  wBase := 200000
  wEmpty := 270
  wMerges := 700
  wMono := 47
  wSum := 11
  pMono := 4
  pSumHalves := 7
  pow35 := pow35Default
  mergeSkipEmpty := false
  nports := 1
  maxOutstanding := none

/-- FREE VALUE. The sign and the fraction payload of a NaN result (notes/assumptions/6.md). The standard
that 42_eval.md R130 cites fixes that such a result is a quiet NaN and no more. -/
opaque freeNaN : F64 → F64 → BitVec 52

/-- FREE VALUE. What a table location holds while BUILD has not written it: `unspecified while ready = 0`
(70_reset_and_hazards.md R181). The first argument counts the resets, since the contents need not be the
same after two of them (notes/assumptions/3.md). -/
opaque unbuiltEntry : Nat → Table → Pattern → BitVec 64

end Config

end Sys2Proof
end

