-- ==== Sys2Proof/Machine/State.lean ====
section
/-! DEFINITION. The state of TLX2048 as plain data (10_state.md R20), the reasons a step can stop, and the
state right after reset is released (70_reset_and_hazards.md R181). -/

namespace Sys2Proof.Machine

/-- The table memory: how far BUILD has come. Only BUILD writes a table, it writes each location once, and what
it writes there is fixed by the index (20_memory.md R49, 40_table_generator.md R80), so the count of its
visits says what all 327680 locations hold: a location whose visit is done holds the entry of
40_table_generator.md R81, and any other holds an unspecified value (70_reset_and_hazards.md R181). The count is
the canonical form: equal memories are equal data (notes/assumptions/2.md). -/
structure Memory where
  /-- How many resets came before this build: the free values of the unwritten locations depend on it. -/
  epoch : Nat
  /-- How many patterns BUILD has visited, in ascending order. -/
  visited : Nat
  deriving DecidableEq, Repr

/-- The canonical form: BUILD has made at most its 65536 visits (40_table_generator.md R80). -/
def Memory.wf (m : Memory) : Bool := decide (m.visited ≤ 65536)

/-- One port (10_state.md R33): the block's response queue, and the two ends of its channels that the host
holds. -/
structure Port where
  /-- The command words the host offers and the block has not accepted, the one on offer first
  (70_reset_and_hazards.md R185, R192). -/
  offered : List CmdWord
  /-- `rspq[p]`, the responses of the accepted commands that the host has not taken, oldest first
  (10_state.md R34). -/
  rspq : List RspWord
  /-- The responses the host has taken, oldest first: the outcome of the port's run
  (70_reset_and_hazards.md R190). The block does not read it. -/
  taken : List RspWord
  deriving DecidableEq, Repr

/-- A port on which nothing has happened. -/
def Port.idle : Port := ⟨[], [], []⟩

/-- The state: the tables, `ready`, the ports' queues (10_state.md R20), the level of the reset input
(70_reset_and_hazards.md R180), the configuration record, and the model's own fields that say what happens
next. There are no registers, no program counter, no flags and no mode (10_state.md R27 to R32). -/
structure State where
  /-- The implementation parameters. No step changes them (10_state.md R30, R35). -/
  cfg : Config
  /-- `ready`: the tables are complete and commands are accepted (10_state.md R31). -/
  ready : Bool
  /-- Reset is asserted (70_reset_and_hazards.md R180). -/
  resetAsserted : Bool
  /-- The five tables (20_memory.md R40). -/
  mem : Memory
  /-- The ports, numbered from 0 (10_state.md R33). -/
  ports : List Port
  /-- The model's own: the port whose agent moved last, and the one an executed command answers on. -/
  cur : Nat
  /-- The model's own: the turns to come, next first. When none is left BUILD and the ports take turns
  (`defaultTurn`). -/
  turns : List Turn
  deriving DecidableEq, Repr

/-- Why the machine stops. -/
inductive Fault where
  /-- Raised by a turn or an executed command that names a port outside `0..NPORTS-1` (10_state.md R33). Safe:
  no such port exists, so the hardware has no behaviour there that the model leaves out. -/
  | noSuchPort (p : Nat)
  deriving DecidableEq, Repr

/-- Why the model gives no meaning. -/
inductive Refusal where
  /-- Raised by `exec` for an instruction without a meaning. No arm of `exec` raises it. Safe. -/
  | notModelled (mnemonic : String)
  deriving DecidableEq, Repr

/-- The three outcomes of a step of this machine. -/
abbrev Result := Host.Outcome State Fault Refusal

/-- The state right after reset is released: `ready = 0`, every queue empty, no command in flight, no table
location written (70_reset_and_hazards.md R181). The configuration is the default record, and the model's own
fields are empty (notes/assumptions/1.md, 4.md and 5.md). -/
def State.reset : State where
  cfg := Config.default
  ready := false
  resetAsserted := false
  mem := ⟨0, 0⟩
  ports := [Port.idle]
  cur := 0
  turns := []

end Sys2Proof.Machine
end

