-- ==== Sys2Proof/Machine/Float64.lean ====
section
/-! DEFINITION. IEEE 754 binary64 addition, subtraction and multiplication, rounding to nearest with ties to
even (42_eval.md R130, R131), computed exactly in integers and rounded once. -/

namespace Sys2Proof.Machine

/-- The sign bit, bit 63 (00_scope.md R13). -/
def f64Sign (f : F64) : Bool := f.getLsbD 63

/-- The biased exponent, bits 62:52 (00_scope.md R13). -/
def f64Exp (f : F64) : Nat := (f.extractLsb' 52 11).toNat

/-- The fraction, bits 51:0 (00_scope.md R13). -/
def f64Frac (f : F64) : Nat := (f.extractLsb' 0 52).toNat

/-- A not-a-number pattern. -/
def f64IsNaN (f : F64) : Bool := f64Exp f == 2047 && f64Frac f != 0

/-- An infinity pattern. -/
def f64IsInf (f : F64) : Bool := f64Exp f == 2047 && f64Frac f == 0

/-- A pattern with a finite value. -/
def f64IsFinite (f : F64) : Bool := f64Exp f != 2047

/-- The significand of a finite pattern, with its hidden bit when it is normal. -/
def f64Sig (f : F64) : Nat := if f64Exp f = 0 then f64Frac f else 2 ^ 52 + f64Frac f

/-- The place of the significand of a finite pattern: its units are `2^(scale - 1074)`. -/
def f64Scale (f : F64) : Nat := f64Exp f - 1

/-- The magnitude of a finite pattern in units of `2^-1074`, the least positive binary64 value. Every
finite binary64 is a whole number of those units. -/
def f64Mag (f : F64) : Nat := f64Sig f * 2 ^ f64Scale f

/-- The exact value of a finite pattern in units of `2^-1074`. -/
def f64Units (f : F64) : Int := if f64Sign f then -(f64Mag f : Int) else (f64Mag f : Int)

/-- The bits with a given sign and a given pattern of the other 63 bits. -/
def f64Pack (neg : Bool) (body : Nat) : F64 :=
  BitVec.ofNat 64 ((if neg then 2 ^ 63 else 0) + body)

/-- The exponent and fraction bits of an infinity. -/
def infBody : Nat := 2047 * 2 ^ 52

/-- `n` divided by `2^s`, rounded to the nearest integer, ties to the even one. -/
def roundShift (n s : Nat) : Nat :=
  let q := n / 2 ^ s
  let r := n % 2 ^ s
  if 2 ^ s < 2 * r then q + 1
  else if 2 * r = 2 ^ s ∧ q % 2 = 1 then q + 1
  else q

/-- The exponent and fraction bits of the magnitude `n * 2^x` units of `2^-1074`, `n` not zero, rounded once to
nearest, ties to even. The number is first moved up, as far as its place `x` allows, to have 53 bits. Then `s` low
bits are dropped: all but the top 53, and never fewer than those that lie below one unit. The significand `m` that is
left stands at place `t`, and the biased exponent and the fraction together are `t * 2^52 + m`: a significand below
`2^52` (only at place 0) is subnormal, and one that rounds up to `2^53` carries into the exponent. What passes the
largest finite value is an infinity. -/
def roundBody (n : Nat) (x : Int) : Nat :=
  let k := min x.toNat (52 - Nat.log2 n)
  let n' := n * 2 ^ k
  let x' := x - k
  let s := max (Nat.log2 n' - 52) (-x').toNat
  let t := (x' + s).toNat
  min (t * 2 ^ 52 + roundShift n' s) infBody

/-- The NaN that an operation on `a` and `b` gives: a quiet NaN whose sign and payload are free, and the same
for `a, b` as for `b, a`, since R131 has addition and multiplication commute bit for bit
(notes/assumptions/6.md). -/
def quietNaN (a b : F64) : F64 :=
  let free := if a.toNat ≤ b.toNat then Config.freeNaN a b else Config.freeNaN b a
  f64Pack (free.getLsbD 51) (infBody + 2 ^ 51 + (free.extractLsb' 0 51).toNat)

/-- `-x`: the sign bit inverted. -/
def fneg (x : F64) : F64 := x ^^^ 0x8000000000000000#64

/-- The common place at which two finite values are added: the lower of the two, a zero having none. -/
def commonScale (a b : F64) : Nat :=
  if f64Sig a = 0 then f64Scale b
  else if f64Sig b = 0 then f64Scale a
  else min (f64Scale a) (f64Scale b)

/-- A finite value as a signed whole number of units at place `e`, when `e` is not above its own place. -/
def f64At (e : Nat) (f : F64) : Int :=
  let n : Nat := f64Sig f * 2 ^ (f64Scale f - e)
  if f64Sign f then -(n : Int) else (n : Int)

/-- `fadd(a, b)` (42_eval.md R131): the exact sum rounded once. An exactly zero sum is `+0.0`, but for the sum
of two negative zeros. -/
def fadd (a b : F64) : F64 :=
  if f64IsNaN a || f64IsNaN b then quietNaN a b
  else if f64IsInf a && f64IsInf b then (if f64Sign a = f64Sign b then a else quietNaN a b)
  else if f64IsInf a then a
  else if f64IsInf b then b
  else
    let e := commonScale a b
    let z := f64At e a + f64At e b
    if z = 0 then f64Pack (f64Sign a && f64Sign b) 0
    else f64Pack (decide (z < 0)) (roundBody z.natAbs e)

/-- `fsub(a, b)` (42_eval.md R131): the sum of `a` and `-b`. -/
def fsub (a b : F64) : F64 := fadd a (fneg b)

/-- `fmul(a, b)` (42_eval.md R131): the exact product rounded once. A product of two counts of `2^-1074` is a count
of `2^-2148`, so its place is 1074 below the sum of the two places. -/
def fmul (a b : F64) : F64 :=
  let neg := f64Sign a != f64Sign b
  if f64IsNaN a || f64IsNaN b then quietNaN a b
  else if f64IsInf a || f64IsInf b then
    (if (f64IsFinite a && f64Sig a == 0) || (f64IsFinite b && f64Sig b == 0) then quietNaN a b
     else f64Pack neg infBody)
  else
    let n := f64Sig a * f64Sig b
    if n = 0 then f64Pack neg 0
    else f64Pack neg (roundBody n ((f64Scale a + f64Scale b : Nat) - 1074))

/-- `f64(n)`, the binary64 value of an unsigned integer (00_scope.md R13): exact below `2^53`, and rounded to
nearest above it, which no default parameter reaches. -/
def f64OfNat (n : Nat) : F64 := if n = 0 then 0 else f64Pack false (roundBody n 1074)

end Sys2Proof.Machine
end

