-- ==== Sys2Proof/Machine/Heur.lean ====
section
/-! DEFINITION. The heuristic score of one pattern (40_table_generator.md R94 to R101) under a configuration
record, the check that ties `POW35` to its exponent (R95), and the recorded `scoreTable` rule (R100). -/

namespace Sys2Proof.Machine

/-- `POW35[r]` (40_table_generator.md R95). -/
def pow35 (c : Config) (r : Rank) : F64 := c.pow35[r.toNat]'(r.isLt)

/-- `sum`: nibble 0 first, left-associated from `+0.0` (40_table_generator.md R96). -/
def heurSum (c : Config) (p : Pattern) : F64 :=
  let s0 : F64 := 0
  let s1 := fadd s0 (pow35 c (nib p 0))
  let s2 := fadd s1 (pow35 c (nib p 1))
  let s3 := fadd s2 (pow35 c (nib p 2))
  fadd s3 (pow35 c (nib p 3))

/-- `empty`: the number of zero nibbles (40_table_generator.md R97). -/
def heurEmpty (p : Pattern) : Nat := (nibbles p).countP (· == 0)

/-- The maximal runs of equal neighbours of a list, each with its rank and its length
(40_table_generator.md R98). -/
def runs : List Rank → List (Rank × Nat)
  | [] => []
  | n :: ns =>
    match runs ns with
    | [] => [(n, 1)]
    | (m, len) :: rest => if m = n then (n, len + 1) :: rest else (n, 1) :: (m, len) :: rest

/-- What a run adds to `merges`: its length when it is a run of two or more tiles, else nothing
(40_table_generator.md R98, 90_conflicts.md C2, decision D16). -/
def runMerges (r : Rank × Nat) : Nat := if r.1 ≠ 0 ∧ 2 ≤ r.2 then r.2 else 0

/-- `merges` (40_table_generator.md R98). With `MERGE_SKIP_EMPTY` the runs are those of the non-zero nibbles
with the empties removed (decision D17). -/
def heurMerges (c : Config) (p : Pattern) : Nat :=
  let cells := if c.mergeSkipEmpty then (nibbles p).filter (· ≠ 0) else nibbles p
  ((runs cells).map runMerges).sum

/-- The two monotonicity accumulators `(monoA, monoB)` over the adjacent pairs of a line, the ranks raised to
the power `e` (40_table_generator.md R99). -/
def monoPair (e : Nat) : List Nat → Nat × Nat
  | a :: b :: rest =>
    let (ma, mb) := monoPair e (b :: rest)
    if b < a then (ma + (a ^ e - b ^ e), mb) else (ma, mb + (b ^ e - a ^ e))
  | _ => (0, 0)

/-- `monoA`: the strict decreases (40_table_generator.md R99). -/
def heurMonoA (c : Config) (p : Pattern) : Nat := (monoPair c.pMono ((nibbles p).map BitVec.toNat)).1

/-- `monoB`: the increases and the equal pairs (40_table_generator.md R99). -/
def heurMonoB (c : Config) (p : Pattern) : Nat := (monoPair c.pMono ((nibbles p).map BitVec.toNat)).2

/-- `mono = min(monoA, monoB)` (40_table_generator.md R99). -/
def heurMono (c : Config) (p : Pattern) : Nat := min (heurMonoA c p) (heurMonoB c p)

/-- `heur(p)`: the four operations from left to right (40_table_generator.md R101, decision D14). -/
def heur (c : Config) (p : Pattern) : F64 :=
  let h0 := f64OfNat c.wBase
  let h1 := fadd h0 (fmul (f64OfNat c.wEmpty) (f64OfNat (heurEmpty p)))
  let h2 := fadd h1 (fmul (f64OfNat c.wMerges) (f64OfNat (heurMerges c p)))
  let h3 := fsub h2 (fmul (f64OfNat c.wMono) (f64OfNat (heurMono c p)))
  fsub h3 (fmul (f64OfNat c.wSum) (heurSum c p))

/-- `f` is a non-negative finite binary64 and no other is nearer to the square root of `n`: the root lies
between the midpoints of `f` and its two neighbours. With `m` the significand, the midpoints are `m + 1/2` and
`m - 1/2`, or `m - 1/4` where the numbers below stand twice as close. Both sides are multiplied by four and
squared to stay in whole numbers. -/
abbrev nearestSqrt (f : F64) (n : Nat) : Prop :=
  f64IsFinite f = true ∧ f64Sign f = false ∧
    (if f64Sig f = 0 then n = 0
     else
      (4 * f64Sig f - (if f64Sig f = 2 ^ 52 ∧ 0 < f64Scale f then 1 else 2)) ^ 2 * 2 ^ (2 * (f64Scale f - 1074)) ≤
          16 * n * 2 ^ (2 * (1074 - f64Scale f)) ∧
        16 * n * 2 ^ (2 * (1074 - f64Scale f)) ≤ (4 * f64Sig f + 2) ^ 2 * 2 ^ (2 * (f64Scale f - 1074)))

/-- `POW35[r]` is the binary64 value nearest to `r^P_SUM`, the square root of `r^(2*P_SUM)`, for every rank
(40_table_generator.md R95). -/
abbrev pow35Nearest (c : Config) : Prop :=
  ∀ r : Rank, nearestSqrt (pow35 c r) (r.toNat ^ c.pSumHalves)

/-- `score(p)`, the content rule of DOC's `scoreTable`, which the block does not hold and no command reads
(40_table_generator.md R100, recorded there for completeness). -/
def score (p : Pattern) : Nat :=
  ((nibbles p).map fun n => if 2 ≤ n.toNat then (n.toNat - 1) * 2 ^ n.toNat else 0).sum

end Sys2Proof.Machine
end

