-- ==== Sys2Proof/Machine/Slide.lean ====
section
/-! DEFINITION. The slide-and-merge of one line: the normative definition of 40_table_generator.md R91, the
right slide of R86 and the in-place form of R93. -/

namespace Sys2Proof.Machine

/-- The rank that two equal tiles of rank `t` merge into: one higher, capped at 15
(40_table_generator.md R91, R92). -/
def mergedRank (t : Rank) : Rank := BitVec.ofNat 4 (min (t.toNat + 1) 15)

/-- One pass over the tiles in index order. An equal pair becomes one merged tile and both sources are
consumed, so no tile merges twice in one slide (40_table_generator.md R91). -/
def mergeTiles : List Rank → List Rank
  | [] => []
  | [t] => [t]
  | t :: u :: ts => if t = u then mergedRank t :: mergeTiles ts else t :: mergeTiles (u :: ts)

/-- The tiles of a line in index order, empties dropped (40_table_generator.md R91). -/
def tiles (p : Pattern) : List Rank := (nibbles p).filter (· ≠ 0)

/-- The pattern of a list of ranks, the missing ones empty (40_table_generator.md R91, last lines). -/
def packLine (l : List Rank) : Pattern := mk4 (l.getD 0 0) (l.getD 1 0) (l.getD 2 0) (l.getD 3 0)

/-- `slideL(p)` (40_table_generator.md R91). -/
def slideL (p : Pattern) : Pattern := packLine (mergeTiles (tiles p))

/-- `slideR(p) = rev(slideL(rev(p)))` (40_table_generator.md R86). -/
def slideR (p : Pattern) : Pattern := rev (slideL (rev p))

/-- The first tile at or after index `j` of a line (40_table_generator.md R93, the inner loop). -/
def nextTile (line : List Rank) (j : Nat) : Option Nat :=
  (List.range 4).find? fun k => decide (j ≤ k) && line.getD k 0 != 0

/-- The outer loop of the in-place form (40_table_generator.md R93) on a line and the slot `i`. Each turn of the
loop clears a tile's cell or moves to the next slot, so the fuel of `slideLInPlace` lets it end. -/
def slideLoop : Nat → Nat → List Rank → List Rank
  | 0, _, line => line
  | fuel + 1, i, line =>
    if 3 ≤ i then line
    else
      match nextTile line (i + 1) with
      | none => line
      | some j =>
        let here := line.getD i 0
        let there := line.getD j 0
        if here = 0 then slideLoop fuel i ((line.set i there).set j 0)
        else if here = there then
          slideLoop fuel (i + 1) ((line.set i (if here = 15 then here else here + 1)).set j 0)
        else slideLoop fuel (i + 1) line

/-- `slideL_inplace(p)` (40_table_generator.md R93). At most three pulls and three slots make six turns. -/
def slideLInPlace (p : Pattern) : Pattern := packLine (slideLoop 7 0 (nibbles p))

/-- The number of empty cells of a line (40_table_generator.md R97). -/
def emptyCells (p : Pattern) : Nat := (nibbles p).countP (· == 0)

/-- No empty cell lies below a tile: every tile is at the lowest indices (40_table_generator.md R107). -/
def compactedLow (p : Pattern) : Prop :=
  ∀ k < 3, nib p k = 0 → nib p (k + 1) = 0

/-- No empty cell lies above a tile: every tile is at the highest indices (40_table_generator.md R107). -/
def compactedHigh (p : Pattern) : Prop :=
  ∀ k < 3, nib p (k + 1) = 0 → nib p k = 0

/-- The value of one cell: 0 when empty, `2^r` for a tile of rank `r` (10_state.md R21). -/
def cellValue (r : Rank) : Nat := if r = 0 then 0 else 2 ^ r.toNat

/-- The sum of the tile values of a line (41_move.md R121). -/
def lineValue (p : Pattern) : Nat := ((nibbles p).map cellValue).sum

end Sys2Proof.Machine
end

