-- ==== Sys2Proof/Machine/TableGen.lean ====
section
/-! DEFINITION. The contents of the five tables as a function of the index (40_table_generator.md R81, R102 to
R106), and which locations one visit of BUILD writes (R80). -/

namespace Sys2Proof.Machine

/-- `ROWL[p] = p ^ slideL(p)` (40_table_generator.md R102). -/
def rowlEntry (p : Pattern) : BitVec 16 := p ^^^ slideL p

/-- `ROWR[p] = p ^ slideR(p)` (40_table_generator.md R103). -/
def rowrEntry (p : Pattern) : BitVec 16 := p ^^^ slideR p

/-- `COLU[p] = spread(p) ^ spread(slideL(p))` (40_table_generator.md R104). -/
def coluEntry (p : Pattern) : BitVec 64 := spread p ^^^ spread (slideL p)

/-- `COLD[p] = spread(p) ^ spread(slideR(p))` (40_table_generator.md R105). -/
def coldEntry (p : Pattern) : BitVec 64 := spread p ^^^ spread (slideR p)

/-- The built contents of every table (40_table_generator.md R81): what `MemRead(T, idx)` gives once BUILD has
ended (20_memory.md R49). -/
def tableEntry (c : Config) : TableReader
  | .rowl, p => rowlEntry p
  | .rowr, p => rowrEntry p
  | .colu, p => coluEntry p
  | .cold, p => coldEntry p
  | .heur, p => heur c p

/-- The visit of BUILD that writes location `p` of a table: DOC's step for the pattern `row` writes `ROWL`,
`COLU` and `HEUR` at `row`, and `ROWR` and `COLD` at `rev(row)` (40_table_generator.md R80). -/
def writingVisit : Table → Pattern → Pattern
  | .rowl, p => p
  | .rowr, p => rev p
  | .colu, p => p
  | .cold, p => rev p
  | .heur, p => p

/-- The number of visits BUILD makes, one for each pattern in `[0, 65536)` (40_table_generator.md R80). -/
def buildVisits : Nat := 65536

end Sys2Proof.Machine
end

