-- ==== Sys2Proof/Machine/Ops.lean ====
section
/-! DEFINITION. The named operations on the state: reading a table, answering a command, the one exception,
BUILD's visits, reset, and what the host does to a port. -/

namespace Sys2Proof.Machine

/-! ### The tables -/

/-- Location `p` of table `t` has been written since the last reset (40_table_generator.md R80). -/
def Memory.written (m : Memory) (t : Table) (p : Pattern) : Bool :=
  decide ((writingVisit t p).toNat < m.visited)

/-- What a location holds: its entry once BUILD has written it (40_table_generator.md R81), and before that an
unspecified value (70_reset_and_hazards.md R181). -/
def Memory.read (c : Config) (m : Memory) : TableReader := fun t p =>
  if m.written t p then tableEntry c t p else (Config.unbuiltEntry m.epoch t p).setWidth t.width

/-- `MemRead(T, idx)` (00_scope.md R13): one whole entry, no fault and no side effect (20_memory.md R46). -/
def memRead (s : State) : TableReader := s.mem.read s.cfg

/-- One visit of BUILD writes the five locations of one pattern (40_table_generator.md R80). -/
def Memory.visit (m : Memory) : Memory :=
  if m.visited < buildVisits then { m with visited := m.visited + 1 } else m

/-- Every location is written (70_reset_and_hazards.md R182). -/
def Memory.complete (m : Memory) : Bool := decide (buildVisits ≤ m.visited)

/-- The tables after a reset: nothing is written (70_reset_and_hazards.md R181). -/
def Memory.clear (m : Memory) : Memory := ⟨m.epoch + 1, 0⟩

/-! ### Answering a command -/

/-- The state with port `p` changed by `f` and nothing else. -/
def modPort (p : Nat) (f : Port → Port) (s : State) : State := { s with ports := s.ports.modify p f }

/-- A port with one more response at the end of its queue (10_state.md R34). -/
def Port.push (w : RspWord) (q : Port) : Port := { q with rspq := q.rspq ++ [w] }

/-- `respond(status, data)`: the response word goes on the current port's channel after all its earlier
responses (00_scope.md R13, 30_encoding.md R66). -/
def respond (status : Status) (data : BitVec 64) (s : State) : Result :=
  if s.cur < s.ports.length then
    .next (modPort s.cur (Port.push (rspWord status data)) s)
  else .fault (.noSuchPort s.cur)

/-- Taking the one exception: `raise IllegalOp(op) = respond(0x01, 0)` (60_exceptions.md R151, R155). Nothing is
saved, no mode changes and control goes nowhere, so there is nothing to return from (R156). The offending
opcode is not kept (R151). -/
def raiseIllegalOp (_op : Opcode) (s : State) : Result := respond statusIllegalOp 0 s

/-! ### Accepting a command -/

/-- Port `p` takes its turn. -/
def atPort (p : Nat) (s : State) : State := { s with cur := p }

/-- A queue of `n` responses has room for one more (10_state.md R34). -/
def hasRoom (c : Config) (n : Nat) : Bool :=
  match c.maxOutstanding with
  | none => true
  | some m => decide (n < m)

/-- A command is accepted on a port only when `ready = 1` and its queue has room (10_state.md R34). -/
def mayAccept (s : State) (q : Port) : Bool := s.ready && hasRoom s.cfg q.rspq.length

/-- The word on offer at a port leaves the command channel (10_state.md R33). -/
def Port.acceptWord (q : Port) : Port := { q with offered := q.offered.tail }

/-- The acceptance of the word on offer at port `p` (10_state.md R33, R34). -/
def accept (p : Nat) (s : State) : State := modPort p Port.acceptWord s

/-! ### BUILD and reset -/

/-- BUILD's turn: under reset or once ready it does nothing, else it makes its next visit, and when every
location is written, and not before, `ready` becomes 1 (70_reset_and_hazards.md R182). -/
def buildTurn (s : State) : State :=
  if s.resetAsserted || s.ready then s
  else if s.mem.complete then { s with ready := true }
  else { s with mem := s.mem.visit }

/-- A port with its responses lost. The words the host goes on offering and the responses it has taken are the
host's (70_reset_and_hazards.md R185, R191). -/
def Port.dropResponses (q : Port) : Port := { q with rspq := [] }

/-- Reset asserted, at any time: `ready` and every queue are cleared, the commands in flight get no response
(70_reset_and_hazards.md R181, R191, decision D23). -/
def resetOn (s : State) : State :=
  { s with
    ready := false
    resetAsserted := true
    mem := s.mem.clear
    ports := s.ports.map Port.dropResponses }

/-- Reset released, which starts BUILD (70_reset_and_hazards.md R182). -/
def resetOff (s : State) : State := { s with resetAsserted := false }

/-! ### The host's actions on a port -/

/-- A port with one more word at the end of what the host offers (70_reset_and_hazards.md R192). -/
def Port.offer (w : CmdWord) (q : Port) : Port := { q with offered := q.offered ++ [w] }

/-- A port whose oldest response the host has taken. With an empty queue there is nothing to take
(10_state.md R34). -/
def Port.takeOldest (q : Port) : Port :=
  match q.rspq with
  | [] => q
  | w :: ws => { q with rspq := ws, taken := q.taken ++ [w] }

/-- An action of the host on port `p`. -/
def onPort (p : Nat) (f : Port → Port) (s : State) : Result :=
  if p < s.ports.length then .next (modPort p f s) else .fault (.noSuchPort p)

end Sys2Proof.Machine
end

