-- ==== Sys2Proof/Machine/Eval.lean ====
section
/-! DEFINITION. EVAL (42_eval.md R132). -/

namespace Sys2Proof.Machine

/-- Four entries added in index order, left-associated (42_eval.md R132, decision D15). -/
def sumFour (e0 e1 e2 e3 : F64) : F64 := fadd (fadd (fadd e0 e1) e2) e3

/-- `h`, the sum of `HEUR` over the four rows (42_eval.md R132). -/
def rowScore (rd : TableReader) (b : Board) : F64 :=
  sumFour (rd .heur (rowIndex b 0)) (rd .heur (rowIndex b 1)) (rd .heur (rowIndex b 2)) (rd .heur (rowIndex b 3))

/-- `v`, the sum of `HEUR` over the four rows of the transpose (42_eval.md R132). -/
def colScore (rd : TableReader) (b : Board) : F64 :=
  sumFour (rd .heur (colIndex b 0)) (rd .heur (colIndex b 1)) (rd .heur (colIndex b 2)) (rd .heur (colIndex b 3))

/-- `EVAL(b) = h + v` (42_eval.md R132). -/
def evalBoard (rd : TableReader) (b : Board) : F64 := fadd (rowScore rd b) (colScore rd b)

/-- EVAL: the response data is `f64bits` of the sum (42_eval.md R132). -/
def execEval (b : Board) (s : State) : Result := respond statusOk (evalBoard (memRead s) b) s

end Sys2Proof.Machine
end

