-- ==== Sys2Proof/Machine/Move.lean ====
section
/-! DEFINITION. The MOVE family (41_move.md). Each board function takes the table contents as an argument: the
meanings give it the tables of the state, and the response function of 30_encoding.md R66 the built ones. -/

namespace Sys2Proof.Machine

/-- `MOVE_UP(b)` (41_move.md R111): `COLU` indexed with the rows of the transpose, the deltas XORed onto the
untransposed board. -/
def moveUp (rd : TableReader) (b : Board) : Board :=
  b ^^^ atColumn 0 (rd .colu (colIndex b 0)) ^^^ atColumn 1 (rd .colu (colIndex b 1)) ^^^
    atColumn 2 (rd .colu (colIndex b 2)) ^^^ atColumn 3 (rd .colu (colIndex b 3))

/-- `MOVE_DOWN(b)` (41_move.md R112): as MOVE.UP with `COLD`. -/
def moveDown (rd : TableReader) (b : Board) : Board :=
  b ^^^ atColumn 0 (rd .cold (colIndex b 0)) ^^^ atColumn 1 (rd .cold (colIndex b 1)) ^^^
    atColumn 2 (rd .cold (colIndex b 2)) ^^^ atColumn 3 (rd .cold (colIndex b 3))

/-- `MOVE_LEFT(b)` (41_move.md R113): `ROWL` indexed with the rows, each delta XORed onto its row. -/
def moveLeft (rd : TableReader) (b : Board) : Board :=
  b ^^^ atRow 0 (rd .rowl (rowIndex b 0)) ^^^ atRow 1 (rd .rowl (rowIndex b 1)) ^^^
    atRow 2 (rd .rowl (rowIndex b 2)) ^^^ atRow 3 (rd .rowl (rowIndex b 3))

/-- `MOVE_RIGHT(b)` (41_move.md R114): as MOVE.LEFT with `ROWR`. -/
def moveRight (rd : TableReader) (b : Board) : Board :=
  b ^^^ atRow 0 (rd .rowr (rowIndex b 0)) ^^^ atRow 1 (rd .rowr (rowIndex b 1)) ^^^
    atRow 2 (rd .rowr (rowIndex b 2)) ^^^ atRow 3 (rd .rowr (rowIndex b 3))

/-- `execute(d, b)` (41_move.md, 10_state.md R25). -/
def moveDir (rd : TableReader) (d : Direction) (b : Board) : Board :=
  match d with
  | .up => moveUp rd b
  | .down => moveDown rd b
  | .left => moveLeft rd b
  | .right => moveRight rd b

/-- A board on which all four moves are no-ops (41_move.md R118). The host finds it from four responses, and
the block reports nothing of it. -/
def terminal (rd : TableReader) (b : Board) : Bool :=
  isNoOp b (moveUp rd b) && isNoOp b (moveDown rd b) && isNoOp b (moveLeft rd b) && isNoOp b (moveRight rd b)

/-- MOVE.UP (41_move.md R111). -/
def execMoveUp (b : Board) (s : State) : Result := respond statusOk (moveUp (memRead s) b) s

/-- MOVE.DOWN (41_move.md R112). -/
def execMoveDown (b : Board) (s : State) : Result := respond statusOk (moveDown (memRead s) b) s

/-- MOVE.LEFT (41_move.md R113). -/
def execMoveLeft (b : Board) (s : State) : Result := respond statusOk (moveLeft (memRead s) b) s

/-- MOVE.RIGHT (41_move.md R114). -/
def execMoveRight (b : Board) (s : State) : Result := respond statusOk (moveRight (memRead s) b) s

end Sys2Proof.Machine
end

