-- ==== Sys2Proof/Machine/Xpose.lean ====
section
/-! DEFINITION. XPOSE (43_xpose.md R142). -/

namespace Sys2Proof.Machine

/-- XPOSE: the response data is the transposed board, and no table is read (43_xpose.md R142). -/
def execXpose (b : Board) (s : State) : Result := respond statusOk (transpose b) s

end Sys2Proof.Machine
end

