-- ==== Sys2Proof/Machine/Dispatch.lean ====
section
/-! DEFINITION. The one match over the commands (30_encoding.md R66). -/

namespace Sys2Proof.Machine

/-- The execution of an accepted command on the current port (30_encoding.md R66). -/
def exec (i : Instr) (s : State) : Host.Outcome State Fault Refusal :=
  match i with
  | .moveUp b => Sys2Proof.Machine.execMoveUp b s
  | .moveDown b => Sys2Proof.Machine.execMoveDown b s
  | .moveLeft b => Sys2Proof.Machine.execMoveLeft b s
  | .moveRight b => Sys2Proof.Machine.execMoveRight b s
  | .eval b => Sys2Proof.Machine.execEval b s
  | .xpose b => Sys2Proof.Machine.execXpose b s

end Sys2Proof.Machine
end

