-- ==== Sys2Proof/Machine/Agents.lean ====
section
/-! DEFINITION. The agents (00_scope.md R14): the ports, each executing one command per turn, BUILD, and the
host. One turn is one event, and which turn comes next is data of the state. -/

namespace Sys2Proof.Machine

/-- The execution of an accepted command word: its command, or the one exception when its opcode is illegal,
decided before any table read (30_encoding.md R66, 60_exceptions.md R151). -/
def execWord (w : CmdWord) (s : State) : Result :=
  match decodeWord w with
  | .legal i => exec i s
  | .illegal op => raiseIllegalOp op s

/-- The turn of port `p`'s agent. A word on offer is accepted and executed when the block is ready and the
port's queue has room. Otherwise it stays on offer (70_reset_and_hazards.md R185, R187). -/
def serve (p : Nat) (s : State) : Result :=
  match s.ports[p]? with
  | none => .fault (.noSuchPort p)
  | some q =>
    match q.offered with
    | [] => .next (atPort p s)
    | w :: _ => if mayAccept s q then execWord w (accept p (atPort p s)) else .next (atPort p s)

/-- The turn that comes when the state lists none: under reset nothing can happen but BUILD's idle turn, before
`ready` BUILD works, and then the ports' agents take turns in the order of their numbers. So BUILD finishes and
every offered command comes to be accepted, as 70_reset_and_hazards.md R189 assumes. -/
def defaultTurn (s : State) : Turn :=
  if s.ready then .serve ((s.cur + 1) % s.cfg.nports) else .build

/-- The next turn. -/
def nextTurn (s : State) : Turn :=
  match s.turns with
  | [] => defaultTurn s
  | t :: _ => t

/-- The state with the next turn taken off the list. -/
def dropTurn (s : State) : State := { s with turns := s.turns.tail }

/-- What one turn does. -/
def runTurn (t : Turn) (s : State) : Result :=
  match t with
  | .offer p w => onPort p (Port.offer w) s
  | .take p => onPort p Port.takeOldest s
  | .assertReset => .next (resetOn s)
  | .releaseReset => .next (resetOff s)
  | .build => .next (buildTurn s)
  | .serve p => serve p s

/-- A port that offers `w` next and whose queue has room: responses that fill the queue are dropped. -/
def Port.primed (c : Config) (w : CmdWord) (q : Port) : Port :=
  { q with
    offered := w :: q.offered
    rspq := if hasRoom c q.rspq.length then q.rspq else [] }

/-- The state in which the next turn accepts and executes `w` on the current port: BUILD has ended, no reset is
asserted, the port offers `w` first, and it is the port's turn (notes/assumptions/8.md). -/
def primeWord (w : CmdWord) (s : State) : State :=
  { s with
    ready := true
    resetAsserted := false
    mem := { s.mem with visited := buildVisits }
    ports := s.ports.modify s.cur (Port.primed s.cfg w)
    turns := .serve s.cur :: s.turns }

end Sys2Proof.Machine
end

