-- ==== Sys2Proof/Machine/Step.lean ====
section
/-! DEFINITION. One step of the machine, and the state that runs a given word next. -/

namespace Sys2Proof.Machine

/-- One step: the next turn happens. -/
def step (s : State) : Host.Outcome State Fault Refusal := runTurn (nextTurn s) (dropTurn s)

/-- `s` with a word of the opcode table placed where the very next step accepts and executes it. -/
def State.withFetchWord (s : State) (nbits w : Nat) : State := primeWord (tableWord nbits w) s

end Sys2Proof.Machine
end

