-- ==== Sys2Proof/Machine/Assembler.lean ====
section
/-! DEFINITION. The command-stream notation (30_encoding.md R70) and the two pseudo-instructions (R71): from the
text of a line to its line of syntax, and from lines to the command words that go to each port. -/

namespace Sys2Proof.Machine

/-! ### From lines to command words -/

/-- The command that a direction names: the MOVE command with `op = d` (30_encoding.md R71). -/
def moveInstr (d : Direction) (b : Board) : Instr :=
  match d with
  | .up => .moveUp b
  | .down => .moveDown b
  | .left => .moveLeft b
  | .right => .moveRight b

/-- The command word of a line, the pseudo-instructions expanded (30_encoding.md R70, R71). -/
def lineWord : AsmLine → Option CmdWord
  | .command i => some (encode i)
  | .moveDir d b => some (encode (moveInstr d b))
  | .nop => some (encode (.xpose 0))
  | .rawOp op b => some (cmdWord op b)
  | .port _ => none

/-- The command words of a stream, each with the port it goes to, when port `p` is the one in force. -/
def assembleFrom (p : Nat) : List AsmLine → List (Nat × CmdWord)
  | [] => []
  | .port q :: ls => assembleFrom q ls
  | .command i :: ls => (p, encode i) :: assembleFrom p ls
  | .moveDir d b :: ls => (p, encode (moveInstr d b)) :: assembleFrom p ls
  | .nop :: ls => (p, encode (.xpose 0)) :: assembleFrom p ls
  | .rawOp op b :: ls => (p, cmdWord op b) :: assembleFrom p ls

/-- The command words of a stream: with no `port` line port 0 is meant (30_encoding.md R70). -/
def assemble (ls : List AsmLine) : List (Nat × CmdWord) := assembleFrom 0 ls

/-- The host offers a command stream: one `offer` turn for each word, before the turns to come. -/
def offerStream (ls : List AsmLine) (s : State) : State :=
  { s with turns := (assemble ls).map (fun e => Turn.offer e.1 e.2) ++ s.turns }

/-! ### From text to lines -/

/-- The lower-case form of a letter, since mnemonics stand in either case (30_encoding.md R70). -/
def lowerChar (c : Char) : Char :=
  if 65 ≤ c.toNat ∧ c.toNat ≤ 90 then Char.ofNat (c.toNat + 32) else c

/-- A space or a tab. What counts as a blank, and that several may stand together, is a DESIGN CHOICE
(notes/assumptions/13.md). -/
def isBlank (c : Char) : Bool := c == ' ' || c.toNat == 9

/-- The text after its leading blanks. -/
def dropBlanks (cs : List Char) : List Char := cs.dropWhile isBlank

/-- The text without blanks at either end. -/
def trimBlanks (cs : List Char) : List Char := (dropBlanks (dropBlanks cs).reverse).reverse

/-- The value of a hexadecimal digit, lower case. -/
def hexDigit (c : Char) : Option Nat :=
  if 48 ≤ c.toNat ∧ c.toNat ≤ 57 then some (c.toNat - 48)
  else if 97 ≤ c.toNat ∧ c.toNat ≤ 102 then some (c.toNat - 87)
  else none

/-- The value of a string of digits in a base, read on from `acc`. -/
def digitsValue (base acc : Nat) : List Char → Option Nat
  | [] => some acc
  | c :: cs =>
    match hexDigit c with
    | some d => if d < base then digitsValue base (base * acc + d) cs else none
    | none => none

/-- A decimal number of at least one digit. Leading zeros are allowed, a DESIGN CHOICE (notes/assumptions/13.md). -/
def decimal (cs : List Char) : Option Nat := if cs = [] then none else digitsValue 10 0 cs

/-- Exactly `n` hexadecimal digits after `0x`, underscores allowed between digits (30_encoding.md R70). Several underscores
in a row, and underscores in the number of `.op`, are a DESIGN CHOICE (notes/assumptions/13.md). -/
def hexNumber (n : Nat) (cs : List Char) : Option Nat :=
  match cs with
  | '0' :: 'x' :: ds =>
    let digits := ds.filter (· != '_')
    if digits.length = n ∧ ds.head? ≠ some '_' ∧ ds.getLast? ≠ some '_' then digitsValue 16 0 digits else none
  | _ => none

/-- The text cut at every character that `p` holds of. -/
def cutAt (p : Char → Bool) : List Char → List (List Char)
  | [] => [[]]
  | c :: cs =>
    match cutAt p cs with
    | [] => [[c]]
    | w :: ws => if p c then [] :: w :: ws else (c :: w) :: ws

/-- The words of a text, cut at blanks. -/
def words (cs : List Char) : List (List Char) := (cutAt isBlank cs).filter (· ≠ [])

/-- A rank in decimal, 0 to 15 (30_encoding.md R70). -/
def rankLiteral (cs : List Char) : Option Rank :=
  match decimal cs with
  | some n => if n < 16 then some (BitVec.ofNat 4 n) else none
  | none => none

/-- One row of a grid literal: four ranks (30_encoding.md R70). -/
def gridRow (cs : List Char) : Option (List Rank) :=
  match (words cs).mapM rankLiteral with
  | some rs => if rs.length = 4 then some rs else none
  | none => none

/-- A grid literal: four rows of four ranks between braces, cut by slashes, row 0 first (30_encoding.md R70). The
braces are the characters 123 and 125. -/
def gridLiteral (cs : List Char) : Option Board :=
  match cs with
  | [] => none
  | c :: rest =>
    if c.toNat = 123 ∧ rest.getLast?.map Char.toNat = some 125 then
      match (cutAt (· == '/') rest.dropLast).mapM gridRow with
      | some rows => if rows.length = 4 then some (gridBoard rows.flatten) else none
      | none => none
    else none

/-- A board operand: 16 hexadecimal digits, or a grid literal (30_encoding.md R70). -/
def boardLiteral (cs : List Char) : Option Board :=
  let cs := trimBlanks cs
  match hexNumber 16 cs with
  | some n => some (BitVec.ofNat 64 n)
  | none => gridLiteral cs

/-- A command of a mnemonic and its operand text (30_encoding.md R70). -/
def commandLine (make : Board → AsmLine) (operand : List Char) : Option AsmLine :=
  (boardLiteral operand).map make

/-- `move <d>, <board>` with `<d>` in 0 to 3 (30_encoding.md R71). -/
def moveLine (operands : List Char) : Option AsmLine :=
  match decimal (trimBlanks (operands.takeWhile (· != ','))), operands.dropWhile (· != ',') with
  | some d, ',' :: b => if d < 4 then commandLine (.moveDir (Direction.ofIndex (BitVec.ofNat 2 d))) b else none
  | _, _ => none

/-- `.op 0x<hh> <board>` (30_encoding.md R70). -/
def opLine (operands : List Char) : Option AsmLine :=
  let cs := dropBlanks operands
  match hexNumber 2 (cs.takeWhile (!isBlank ·)) with
  | some op => commandLine (.rawOp (BitVec.ofNat 8 op)) (cs.dropWhile (!isBlank ·))
  | none => none

/-- `port <p>:` (30_encoding.md R70). -/
def portLine (operands : List Char) : Option AsmLine :=
  let cs := trimBlanks operands
  if cs.getLast? = some ':' then (decimal (trimBlanks cs.dropLast)).map AsmLine.port else none

/-- A line of text without its comment and the blanks around it, in lower case. 30_encoding.md R70 says 'in either case' of
the six mnemonics. That `.op`, `port`, `nop`, `move`, `0x` and the hexadecimal digits may be capitals too is a DESIGN
CHOICE (notes/assumptions/13.md). -/
def plainLine (cs : List Char) : List Char := trimBlanks ((cs.takeWhile (· != ';')).map lowerChar)

/-- The line of syntax that a line of text is (30_encoding.md R70, R71), or none when it is not one. -/
def parseLine (text : List Char) : Option AsmLine :=
  let cs := plainLine text
  let word := cs.takeWhile (!isBlank ·)
  let rest := cs.dropWhile (!isBlank ·)
  if word = ['m', 'o', 'v', 'e', '.', 'u', 'p'] then commandLine (.command ∘ .moveUp) rest
  else if word = ['m', 'o', 'v', 'e', '.', 'd', 'o', 'w', 'n'] then commandLine (.command ∘ .moveDown) rest
  else if word = ['m', 'o', 'v', 'e', '.', 'l', 'e', 'f', 't'] then commandLine (.command ∘ .moveLeft) rest
  else if word = ['m', 'o', 'v', 'e', '.', 'r', 'i', 'g', 'h', 't'] then commandLine (.command ∘ .moveRight) rest
  else if word = ['e', 'v', 'a', 'l'] then commandLine (.command ∘ .eval) rest
  else if word = ['x', 'p', 'o', 's', 'e'] then commandLine (.command ∘ .xpose) rest
  else if word = ['m', 'o', 'v', 'e'] then moveLine rest
  else if word = ['.', 'o', 'p'] then opLine rest
  else if word = ['p', 'o', 'r', 't'] then portLine rest
  else if word = ['n', 'o', 'p'] ∧ rest = [] then some .nop
  else none

/-- The lines of a stream of text. That lines with nothing but a comment are passed over, and that one unreadable line
makes the text no stream, is a DESIGN CHOICE (notes/assumptions/13.md). -/
def parseStream (lines : List (List Char)) : Option (List AsmLine) :=
  (lines.filter (fun l => plainLine l ≠ [])).mapM parseLine

end Sys2Proof.Machine
end

