-- ==== Sys2Proof/Machine/Response.lean ====
section
/-! DEFINITION. The response to a command word as a function of the word and the configuration alone
(30_encoding.md R66), written over the built tables. The machine answers it because its tables hold them, which
is what the statements say. -/

namespace Sys2Proof.Machine

/-- The data of a command's response under given tables (30_encoding.md R63, R66). -/
def resultOf (rd : TableReader) : Instr → BitVec 64
  | .moveUp b => moveUp rd b
  | .moveDown b => moveDown rd b
  | .moveLeft b => moveLeft rd b
  | .moveRight b => moveRight rd b
  | .eval b => evalBoard rd b
  | .xpose b => transpose b

/-- The response to a decoded command word (30_encoding.md R66). -/
def answerOf (rd : TableReader) : Decoded → RspWord
  | .legal i => rspWord statusOk (resultOf rd i)
  | .illegal _ => rspWord statusIllegalOp 0

/-- `response(CMDW)` (30_encoding.md R66). -/
def response (c : Config) (w : CmdWord) : RspWord := answerOf (tableEntry c) (decodeWord w)

end Sys2Proof.Machine
end

