-- ==== Sys2Proof/WellFormed.lean ====
section
/-! DEFINITION. Well-formedness checks of the syntax and of the configuration record. -/

namespace Sys2Proof

/-- Every board operand is legal, so every command is well formed: `The block validates nothing and rejects
no operand` (10_state.md R22). One row per constructor, so that a new command needs its own answer. -/
def Instr.wf : Instr → Bool
  | .moveUp _ => true
  | .moveDown _ => true
  | .moveLeft _ => true
  | .moveRight _ => true
  | .eval _ => true
  | .xpose _ => true

/-- `NPORTS >= 1` and `MAX_OUTSTANDING >= 1` (00_scope.md R9). -/
def Config.wf (c : Config) : Bool :=
  decide (1 ≤ c.nports) &&
    match c.maxOutstanding with
    | none => true
    | some n => decide (1 ≤ n)

/-- A turn names a port that exists: the ports are numbered `0..NPORTS-1` (10_state.md R33). -/
def Turn.wf (nports : Nat) (t : Turn) : Bool :=
  match t.port? with
  | none => true
  | some p => decide (p < nports)

/-- A line of a command stream names a port that exists (30_encoding.md R70). -/
def AsmLine.wf (nports : Nat) : AsmLine → Bool
  | .command i => i.wf
  | .moveDir _ _ => true
  | .nop => true
  | .rawOp _ _ => true
  | .port p => decide (p < nports)

end Sys2Proof
end

