-- ==== Sys2Proof/Safety.lean ====
section
/-! DEFINITION. What the statements mean by a good state, by the contents of the tables, and by the outcome of a
port's run. -/

namespace Sys2Proof.Machine

/-- The turns to come name ports that exist (10_state.md R33). -/
def State.turnsWf (s : State) : Prop := ∀ t ∈ s.turns, t.wf s.cfg.nports = true

/-- The invariant of the machine: what the spec says of its state in every run. -/
structure State.Inv (s : State) : Prop where
  /-- `NPORTS >= 1` and `MAX_OUTSTANDING >= 1` (00_scope.md R9). -/
  cfg_wf : s.cfg.wf = true
  /-- There are `NPORTS` ports (10_state.md R33). -/
  ports_count : s.ports.length = s.cfg.nports
  /-- The current port exists. -/
  cur_exists : s.cur < s.cfg.nports
  /-- The table memory is in its canonical form. -/
  mem_wf : s.mem.wf = true
  /-- `ready` is 1 only when every location of every table is written (70_reset_and_hazards.md R182). -/
  ready_built : s.ready = true → s.mem.complete = true
  /-- While reset is asserted the block is not ready. DEDUCED from 70_reset_and_hazards.md R181, which gives the state
  after the release (notes/assumptions/9.md). -/
  reset_unready : s.resetAsserted = true → s.ready = false
  /-- While reset is asserted no location is written, because its release starts BUILD. DEDUCED from
  70_reset_and_hazards.md R182 (notes/assumptions/9.md). -/
  reset_unbuilt : s.resetAsserted = true → s.mem.visited = 0
  /-- While `ready` is 0 every response queue is empty (70_reset_and_hazards.md R181, 10_state.md R31). While reset is
  asserted that is DEDUCED (notes/assumptions/9.md). -/
  unready_empty : s.ready = false → ∀ q ∈ s.ports, q.rspq = []
  /-- No queue is longer than `MAX_OUTSTANDING` (10_state.md R20). -/
  queues_bounded : ∀ q ∈ s.ports, ∀ m, s.cfg.maxOutstanding = some m → q.rspq.length ≤ m
  /-- Every response waiting is one the block can produce (30_encoding.md R64). -/
  queues_legal : ∀ q ∈ s.ports, ∀ w ∈ q.rspq, legalResponse w = true
  /-- The turns to come name ports that exist. -/
  turns_wf : s.turnsWf

/-- BUILD has ended, so that every location holds its entry (70_reset_and_hazards.md R182). -/
def State.built (s : State) : Prop := s.mem.complete = true

/-- All that port `q` has answered and is still to answer, oldest first: what the host has taken, what waits in the
queue, and the answers to the words still on offer (70_reset_and_hazards.md R190). -/
def Port.transcript (c : Config) (q : Port) : List RspWord :=
  q.taken ++ q.rspq ++ q.offered.map (response c)

/-- The lines of a move in direction `d`: rows for left and right, columns for up and down (41_move.md R115). -/
def lineOf (d : Direction) (b : Board) (k : Nat) : Pattern :=
  match d with
  | .up => column b k
  | .down => column b k
  | .left => row b k
  | .right => row b k

/-- What a move in direction `d` makes of a line: up and left slide toward index 0, down and right toward index 3
(41_move.md R115). -/
def slideToward (d : Direction) (p : Pattern) : Pattern :=
  match d with
  | .up => slideL p
  | .down => slideR p
  | .left => slideL p
  | .right => slideR p

/-- The delta that a move in direction `d` reads for line `k` (20_memory.md R42), as a 64-bit value. -/
def deltaOf (rd : TableReader) (d : Direction) (b : Board) (k : Nat) : BitVec 64 :=
  match d with
  | .up => rd .colu (colIndex b k)
  | .down => rd .cold (colIndex b k)
  | .left => (rd .rowl (rowIndex b k)).setWidth 64
  | .right => (rd .rowr (rowIndex b k)).setWidth 64

/-- Every tile of a line lies at the edge that a move in direction `d` moves toward (41_move.md R119). -/
def compactedToward (d : Direction) (p : Pattern) : Prop :=
  match d with
  | .up => compactedLow p
  | .down => compactedHigh p
  | .left => compactedLow p
  | .right => compactedHigh p

/-- Two equal tiles of a line stand side by side once the empties are dropped, so that a slide of the line merges
(40_table_generator.md R91). -/
def lineMerges (p : Pattern) : Prop := ∃ i t, (tiles p)[i]? = some t ∧ (tiles p)[i + 1]? = some t

/-- Two rank-15 tiles of a line stand side by side once the empties are dropped (40_table_generator.md R92). -/
def lineSaturates (p : Pattern) : Prop := ∃ i, (tiles p)[i]? = some 15#4 ∧ (tiles p)[i + 1]? = some 15#4

/-- The number of empty cells of a board (41_move.md R121). -/
def boardEmpties (b : Board) : Nat :=
  emptyCells (row b 0) + emptyCells (row b 1) + emptyCells (row b 2) + emptyCells (row b 3)

/-- The sum of the tile values of a board (41_move.md R121). -/
def boardValue (b : Board) : Nat :=
  lineValue (row b 0) + lineValue (row b 1) + lineValue (row b 2) + lineValue (row b 3)

/-- The words that a turn adds to what the host offers on port `p`. -/
def offersOn (p : Nat) : Turn → List CmdWord
  | .offer p' w => if p' = p then [w] else []
  | .take _ => []
  | .assertReset => []
  | .releaseReset => []
  | .build => []
  | .serve _ => []

/-- The state with one more response on the current port, and nothing else changed. -/
def State.answered (s : State) (w : RspWord) : State := modPort s.cur (Port.push w) s

/-- Two states agree on all that port `p` and its host can see: the port itself, and what all ports share
(60_exceptions.md R161). -/
structure State.SameFor (p : Nat) (s t : State) : Prop where
  cfg : s.cfg = t.cfg
  ready : s.ready = t.ready
  resetAsserted : s.resetAsserted = t.resetAsserted
  mem : s.mem = t.mem
  cur : s.cur = t.cur
  turns : s.turns = t.turns
  port : s.ports[p]? = t.ports[p]?
  count : s.ports.length = t.ports.length

/-- A step from `s` neither faults nor refuses. -/
def State.goesOn (s : State) : Prop := ∃ t, step s = .next t

end Sys2Proof.Machine
end

