-- ==== Sys2Proof/Certificates/Slice0/Obligations.lean ====
section
/-! DEFINITION. The statements for the provers, in the order of the spec's files. -/

open Sys2Proof Sys2Proof.Machine

/-! ### Command and response words (30_encoding.md) -/

/-- R61, R62, R44: the nine bytes of every command, its board with every bit, decode to that command, and no other
byte string does. -/
def Obligations.DecodingInvertsEncoding : Prop :=
  ∀ (i : Instr) (bs : List Byte), i.wf = true → (decodeBytes bs = .ok (.legal i) ↔ bs = encodeBytes i)

/-- R69: decoding is total, and which of the seven kinds comes out is read from `CMDW[7:0]` alone. -/
def Obligations.DecodingReadsOnlyTheOpcode : Prop :=
  ∀ w v : CmdWord, cmdOp w = cmdOp v →
    (∀ i, decodeWord w = .legal i →
      ∃ j, decodeWord v = .legal j ∧ j.opcode = i.opcode ∧ i.board = cmdBoard w ∧ j.board = cmdBoard v) ∧
    (∀ op, decodeWord w = .illegal op → decodeWord v = .illegal op)

/-- R44, R72, R60: byte `j` of a word is its bits `8j+7:8j`, nine bytes carry the word whole, and a byte string of
another length is no command. -/
def Obligations.SerialisationPreservesTheWord : Prop :=
  (∀ w : BitVec 72,
    bytesToWord (wordToBytes w) = .ok w ∧ (wordToBytes w).length = 9 ∧
      ∀ j < 9, (wordToBytes w)[j]? = some (w.extractLsb' (8 * j) 8)) ∧
  ∀ bs : List Byte, bs.length ≠ 9 → decodeBytes bs = .error (.wrongLength bs.length)

/-- R62, with the words of 95_test_vectors.md parts 5 to 8 written out. -/
def Obligations.SampleWordsDecode : Prop :=
  decodeWord 0x333310010000402200#72 = .legal (.moveUp 0x3333100100004022#64) ∧
  decodeWord 0x333310010000402201#72 = .legal (.moveDown 0x3333100100004022#64) ∧
  decodeWord 0x333310010000402202#72 = .legal (.moveLeft 0x3333100100004022#64) ∧
  decodeWord 0x333310010000402203#72 = .legal (.moveRight 0x3333100100004022#64) ∧
  decodeWord 0x333310010000402204#72 = .legal (.eval 0x3333100100004022#64) ∧
  decodeWord 0xFEDCBA987654321005#72 = .legal (.xpose 0xFEDCBA9876543210#64) ∧
  decodeWord 0x333310010000402206#72 = .illegal 0x06#8 ∧
  decodeWord 0x333310010000402284#72 = .illegal 0x84#8 ∧
  decodeBytes [0x02#8, 0x22#8, 0x40#8, 0x00#8, 0x00#8, 0x01#8, 0x10#8, 0x33#8, 0x33#8] =
    .ok (.legal (.moveLeft 0x3333100100004022#64))

/-- R64: the executed word's one response has status OK and the command's result as data when the opcode is one of
0x00 to 0x05, and else status ILLEGAL_OP and data zero. -/
def Obligations.StatusSaysOnlyLegality : Prop :=
  ∀ (w : CmdWord) (s t : State), execWord w s = .next t →
    ∃ r, t = s.answered r ∧
      (if (cmdOp w).toNat ≤ 5 then
        rspStatus r = 0x00#8 ∧ ∃ i, decodeWord w = .legal i ∧ rspData r = resultOf (memRead s) i
       else rspStatus r = 0x01#8 ∧ rspData r = 0)

/-- R65, R151: every opcode from 0x06 to 0xFF gets the ILLEGAL_OP response whatever the board, and nothing else
changes. -/
def Obligations.IllegalOpcodesAreAnswered : Prop :=
  ∀ (op : Opcode) (b : Board) (s : State), 6 ≤ op.toNat → s.cur < s.ports.length →
    execWord (cmdWord op b) s = .next (s.answered (rspWord 0x01#8 0))

/-- R66, R50: in every state whose tables are built, an executed word is answered with the function of the word
and the configuration that R66 gives. -/
def Obligations.ResponseDependsOnTheWordAlone : Prop :=
  ∀ (w : CmdWord) (s : State), s.built → s.cur < s.ports.length →
    execWord w s = .next (s.answered (response s.cfg w))

/-- R71, R25: `move <d>` is the MOVE command with `op = d`, and `nop` is `xpose 0`, answered with zero. -/
def Obligations.PseudoInstructionsExpand : Prop :=
  (∀ (d : Direction) (b : Board), lineWord (.moveDir d b) = some (cmdWord (d.index.setWidth 8) b)) ∧
  lineWord .nop = some (cmdWord 0x05#8 0) ∧
  ∀ c : Config, response c (cmdWord 0x05#8 0) = rspWord 0x00#8 0

/-! ### The table generator (40_table_generator.md) -/

/-- R87, R88: `rev` is an involution, fixes exactly the palindromes, and is the shift-and-mask form. -/
def Obligations.ReversalIsAnInvolution : Prop :=
  ∀ p : Pattern,
    rev (rev p) = p ∧ (rev p = p ↔ nib p 0 = nib p 3 ∧ nib p 1 = nib p 2) ∧ rev p = revByShifts p

/-- R89, R90, D28: `spread` puts nibble `k` at bit `16k` and sets no other bit, so that shifted left by `4c` it lies
down column `c` of a board, and it distributes over XOR. -/
def Obligations.SpreadMovesNibblesApart : Prop :=
  ∀ p q : Pattern,
    (∀ k < 4, nib (spread p) (4 * k) = nib p k) ∧ spread p &&& 0xFFF0FFF0FFF0FFF0#64 = 0 ∧
    (∀ c < 4, column (spread p <<< (4 * c)) c = p) ∧ spread (p ^^^ q) = spread p ^^^ spread q

/-- R81, R82: the contents of the five tables. The entries are deltas, the column tables are the spread row tables, and an
entry is zero exactly when the slide leaves the pattern unchanged. -/
def Obligations.TableEntriesAreDeltas : Prop :=
  ∀ (c : Config) (p : Pattern),
    tableEntry c .rowl p = p ^^^ slideL p ∧ tableEntry c .rowr p = p ^^^ rev (slideL (rev p)) ∧
    tableEntry c .colu p = spread p ^^^ spread (slideL p) ∧ tableEntry c .cold p = spread p ^^^ spread (slideR p) ∧
    tableEntry c .heur p = heur c p ∧
    tableEntry c .colu p = spread (tableEntry c .rowl p) ∧ tableEntry c .cold p = spread (tableEntry c .rowr p) ∧
    p ^^^ tableEntry c .rowl p = slideL p ∧ p ^^^ tableEntry c .rowr p = slideR p ∧
    (tableEntry c .rowl p = 0 ↔ slideL p = p) ∧ (tableEntry c .rowr p = 0 ↔ slideR p = p) ∧
    (tableEntry c .colu p = 0 ↔ slideL p = p) ∧ (tableEntry c .cold p = 0 ↔ slideR p = p)

/-- R107: the tables of the two row directions mirror each other. -/
def Obligations.RowTablesMirrorEachOther : Prop :=
  ∀ (c : Config) (p : Pattern),
    rev (p ^^^ tableEntry c .rowl p) = rev p ^^^ tableEntry c .rowr (rev p) ∧
    tableEntry c .rowr (rev p) = rev (tableEntry c .rowl p)

/-- R91, R92, with the examples of those rules: `[2,2,0,4]`, `[1,1,2,0]`, `[1,1,1,0]`, `[1,1,1,1]`, `[1,0,0,1]`,
`[1,2,3,4]`, the empty line, and the saturating lines. -/
def Obligations.SampleSlides : Prop :=
  slideL 0x4022#16 = 0x0043#16 ∧ slideL 0x0211#16 = 0x0022#16 ∧ slideL 0x0111#16 = 0x0012#16 ∧
  slideL 0x1111#16 = 0x0022#16 ∧ slideL 0x1001#16 = 0x0002#16 ∧ slideL 0x4321#16 = 0x4321#16 ∧
  slideL 0x0000#16 = 0x0000#16 ∧ slideL 0x00FF#16 = 0x000F#16 ∧ slideL 0xFFFF#16 = 0x00FF#16 ∧
  slideL 0x0FEE#16 = 0x00FF#16 ∧ slideR 0x4022#16 = 0x4300#16

/-- R93: the in-place form computes the same slide. -/
def Obligations.InPlaceSlideIsTheSame : Prop := ∀ p : Pattern, slideLInPlace p = slideL p

/-- R95: the default `POW35[r]` is the binary64 value nearest to `r^3.5`, for every rank. -/
def Obligations.PowerTableIsCorrectlyRounded : Prop := pow35Nearest Config.default

/-- R98: `merges` counts the tiles that have an equal neighbour, since a run of length `L >= 2` contributes `L` and
a run of length 1 contributes nothing. The neighbours are those of the line with `MERGE_SKIP_EMPTY = 0`, where an
empty cell ends a run, and those of the list of tiles with the empties removed with `MERGE_SKIP_EMPTY = 1`. -/
def Obligations.MergesCountsTilesInRuns : Prop :=
  ∀ (c : Config) (p : Pattern),
    (c.mergeSkipEmpty = false →
      heurMerges c p =
        (List.range 4).countP fun k =>
          decide (nib p k ≠ 0 ∧
            ((1 ≤ k ∧ nib p (k - 1) = nib p k) ∨ (k < 3 ∧ nib p (k + 1) = nib p k)))) ∧
    (c.mergeSkipEmpty = true →
      heurMerges c p =
        (List.range (tiles p).length).countP fun k =>
          decide ((1 ≤ k ∧ (tiles p)[k - 1]? = (tiles p)[k]?) ∨ (tiles p)[k + 1]? = (tiles p)[k]?))

/-- R99: with the default exponent each accumulator is at most `2 * 50625` and `mono` at most `50625`, and the two
accumulators differ by the fourth powers of the two end cells. -/
def Obligations.MonotonicityIsBounded : Prop :=
  ∀ (c : Config) (p : Pattern), c.pMono = 4 →
    heurMonoA c p ≤ 101250 ∧ heurMonoB c p ≤ 101250 ∧ heurMono c p ≤ 50625 ∧
    (heurMonoA c p : Int) - heurMonoB c p = ((nib p 0).toNat : Int) ^ 4 - ((nib p 3).toNat : Int) ^ 4

/-- R106: `empty`, `merges` and `mono` are the same for a pattern and its reverse, under every configuration. -/
def Obligations.HeuristicCountsIgnoreReversal : Prop :=
  ∀ (c : Config) (p : Pattern),
    heurEmpty (rev p) = heurEmpty p ∧ heurMerges c (rev p) = heurMerges c p ∧ heurMono c (rev p) = heurMono c p

/-- R101, with five rows of its table of worked examples, and the one with `MERGE_SKIP_EMPTY = 1`. -/
def Obligations.SampleHeuristics : Prop :=
  heur Config.default 0x0000#16 = 0x41088BC000000000#64 ∧
  heur Config.default 0x4022#16 = 0x410852E8C98CC443#64 ∧
  heur Config.default 0x4231#16 = 0x4107CA390A7A9AE9#64 ∧
  heur Config.default 0x0555#16 = 0x410793D1C1B9E07F#64 ∧
  heur Config.default 0x0F0F#16 = 0xC142D13201B8EC47#64 ∧
  heur { Config.default with mergeSkipEmpty := true } 0x0101#16 = 0x4108A47800000000#64

/-! ### The MOVE family (41_move.md) -/

/-- R111, R112: MOVE.UP and MOVE.DOWN read `COLU` or `COLD` at the four rows of the transpose and XOR the deltas onto the
untransposed board at the offsets 0, 4, 8, 12. -/
def Obligations.ColumnMovesXorColumnDeltas : Prop :=
  ∀ (b : Board) (s : State), s.built → s.cur < s.ports.length →
    exec (.moveUp b) s = .next (s.answered (rspWord 0x00#8
      (b ^^^ (coluEntry (row (transpose b) 0) <<< 0) ^^^ (coluEntry (row (transpose b) 1) <<< 4) ^^^
        (coluEntry (row (transpose b) 2) <<< 8) ^^^ (coluEntry (row (transpose b) 3) <<< 12)))) ∧
    exec (.moveDown b) s = .next (s.answered (rspWord 0x00#8
      (b ^^^ (coldEntry (row (transpose b) 0) <<< 0) ^^^ (coldEntry (row (transpose b) 1) <<< 4) ^^^
        (coldEntry (row (transpose b) 2) <<< 8) ^^^ (coldEntry (row (transpose b) 3) <<< 12))))

/-- R113, R114: MOVE.LEFT and MOVE.RIGHT read `ROWL` or `ROWR` at the four rows and XOR each delta onto its row. -/
def Obligations.RowMovesXorRowDeltas : Prop :=
  ∀ (b : Board) (s : State), s.built → s.cur < s.ports.length →
    exec (.moveLeft b) s = .next (s.answered (rspWord 0x00#8
      (b ^^^ ((rowlEntry (row b 0)).setWidth 64 <<< 0) ^^^ ((rowlEntry (row b 1)).setWidth 64 <<< 16) ^^^
        ((rowlEntry (row b 2)).setWidth 64 <<< 32) ^^^ ((rowlEntry (row b 3)).setWidth 64 <<< 48)))) ∧
    exec (.moveRight b) s = .next (s.answered (rspWord 0x00#8
      (b ^^^ ((rowrEntry (row b 0)).setWidth 64 <<< 0) ^^^ ((rowrEntry (row b 1)).setWidth 64 <<< 16) ^^^
        ((rowrEntry (row b 2)).setWidth 64 <<< 32) ^^^ ((rowrEntry (row b 3)).setWidth 64 <<< 48))))

/-- R115: MOVE.LEFT and MOVE.RIGHT answer with the board each of whose rows is slid, and MOVE.UP and MOVE.DOWN with the
board each of whose columns is. -/
def Obligations.MovesSlideEveryLine : Prop :=
  ∀ (b : Board) (s : State), s.built → s.cur < s.ports.length →
    (∃ d, exec (.moveLeft b) s = .next (s.answered (rspWord 0x00#8 d)) ∧
      ∀ k < 4, row d k = slideL (row b k)) ∧
    (∃ d, exec (.moveRight b) s = .next (s.answered (rspWord 0x00#8 d)) ∧
      ∀ k < 4, row d k = slideR (row b k)) ∧
    (∃ d, exec (.moveUp b) s = .next (s.answered (rspWord 0x00#8 d)) ∧
      ∀ k < 4, row (transpose d) k = slideL (row (transpose b) k)) ∧
    (∃ d, exec (.moveDown b) s = .next (s.answered (rspWord 0x00#8 d)) ∧
      ∀ k < 4, row (transpose d) k = slideR (row (transpose b) k))

/-- R116: the vertical moves are the horizontal ones between two transpositions, and MOVE.RIGHT is MOVE.LEFT between
two mirrorings. -/
def Obligations.MovesAreConjugate : Prop :=
  ∀ (b : Board) (s : State), s.built →
    moveUp (memRead s) b = transpose (moveLeft (memRead s) (transpose b)) ∧
    moveDown (memRead s) b = transpose (moveRight (memRead s) (transpose b)) ∧
    moveRight (memRead s) b = mirror (moveLeft (memRead s) (mirror b))

/-- R117: a move leaves the board as it is exactly when all four deltas read are zero, which is when every line is
already slid. The empty board is a no-op in all four directions. -/
def Obligations.NoOpMovesHaveSlidLines : Prop :=
  ∀ (c : Config) (d : Direction) (b : Board),
    (moveDir (tableEntry c) d b = b ↔ ∀ k < 4, deltaOf (tableEntry c) d b k = 0) ∧
    (moveDir (tableEntry c) d b = b ↔ ∀ k < 4, slideToward d (lineOf d b k) = lineOf d b k) ∧
    moveDir (tableEntry c) d 0 = 0

/-- R119: after a move every line is compacted toward the edge, so a second move in the same direction that changes the
board merges in some line. It may do so: a move is not idempotent. -/
def Obligations.MovesCompactButMayMergeAgain : Prop :=
  (∀ (c : Config) (d : Direction) (b : Board),
    (∀ k < 4, compactedToward d (lineOf d (moveDir (tableEntry c) d b) k)) ∧
    (moveDir (tableEntry c) d (moveDir (tableEntry c) d b) ≠ moveDir (tableEntry c) d b →
      ∃ k, k < 4 ∧ lineMerges (lineOf d (moveDir (tableEntry c) d b) k))) ∧
  ∀ c : Config,
    moveLeft (tableEntry c) 0x0000000000000211#64 = 0x0000000000000022#64 ∧
    moveLeft (tableEntry c) (moveLeft (tableEntry c) 0x0000000000000211#64) = 0x0000000000000003#64

/-- R121: a move never has fewer empty cells, and has more exactly when a line merges. It keeps the sum of the tile values
when no two rank-15 tiles merge, and in whatever line two of them merge, the sum falls. The last clause is the rule's
own numbers: two tiles of 32768 become one. -/
def Obligations.MovesKeepEmptyCellsAndTileSums : Prop :=
  (∀ (c : Config) (d : Direction) (b : Board),
    boardEmpties b ≤ boardEmpties (moveDir (tableEntry c) d b) ∧
    (boardEmpties b < boardEmpties (moveDir (tableEntry c) d b) ↔ ∃ k, k < 4 ∧ lineMerges (lineOf d b k)) ∧
    ((∀ k < 4, ¬ lineSaturates (lineOf d b k)) → boardValue (moveDir (tableEntry c) d b) = boardValue b) ∧
    ((∃ k, k < 4 ∧ lineSaturates (lineOf d b k)) → boardValue (moveDir (tableEntry c) d b) < boardValue b)) ∧
  ∀ c : Config,
    boardValue 0x00000000000000FF#64 = 65536 ∧
    boardValue (moveDir (tableEntry c) .left 0x00000000000000FF#64) = 32768

/-! ### EVAL (42_eval.md) -/

/-- R132: the seven additions of EVAL in their order, on the built `HEUR`. -/
def Obligations.EvalSumsRowsThenColumns : Prop :=
  ∀ (b : Board) (s : State), s.built → s.cur < s.ports.length →
    exec (.eval b) s = .next (s.answered (rspWord 0x00#8
      (fadd
        (fadd (fadd (fadd (heur s.cfg (row b 0)) (heur s.cfg (row b 1))) (heur s.cfg (row b 2)))
          (heur s.cfg (row b 3)))
        (fadd (fadd (fadd (heur s.cfg (row (transpose b) 0)) (heur s.cfg (row (transpose b) 1)))
          (heur s.cfg (row (transpose b) 2))) (heur s.cfg (row (transpose b) 3))))))

/-- R133: EVAL gives the same response for a board and its transpose, bit for bit, and not for every board mirrored
left-to-right or top-to-bottom, since `HEUR[rev(p)]` need not equal `HEUR[p]`. The first clause takes in every state
and configuration. Where an entry is a NaN (an unbuilt table, a NaN in POW35) it rests on the model's choice that the
free NaN is symmetric in its operands (notes/assumptions/6.md). -/
def Obligations.EvalIgnoresTransposition : Prop :=
  (∀ (b : Board) (s : State), exec (.eval (transpose b)) s = exec (.eval b) s) ∧
  (∃ b : Board, evalBoard (tableEntry Config.default) (mirror b) ≠ evalBoard (tableEntry Config.default) b) ∧
  (∃ b : Board, evalBoard (tableEntry Config.default) (flip b) ≠ evalBoard (tableEntry Config.default) b) ∧
  ∃ p : Pattern, heur Config.default (rev p) ≠ heur Config.default p

/-- R131: addition and multiplication commute bit for bit. For NaN results that is the model's choice
(notes/assumptions/6.md). -/
def Obligations.SumAndProductCommute : Prop := ∀ a b : F64, fadd a b = fadd b a ∧ fmul a b = fmul b a

/-- R131: a finite sum or difference is the exact one rounded once to nearest, and a tie goes to the even
fraction. -/
def Obligations.SumIsRoundedToNearest : Prop :=
  ∀ a b x : F64, f64IsFinite a = true → f64IsFinite b = true → f64IsFinite x = true →
    (f64IsFinite (fadd a b) = true →
      (f64Units (fadd a b) - (f64Units a + f64Units b)).natAbs ≤ (f64Units x - (f64Units a + f64Units b)).natAbs ∧
      ((f64Units (fadd a b) - (f64Units a + f64Units b)).natAbs = (f64Units x - (f64Units a + f64Units b)).natAbs →
        f64Units x = f64Units (fadd a b) ∨ f64Frac (fadd a b) % 2 = 0)) ∧
    (f64IsFinite (fsub a b) = true →
      (f64Units (fsub a b) - (f64Units a - f64Units b)).natAbs ≤ (f64Units x - (f64Units a - f64Units b)).natAbs ∧
      ((f64Units (fsub a b) - (f64Units a - f64Units b)).natAbs = (f64Units x - (f64Units a - f64Units b)).natAbs →
        f64Units x = f64Units (fsub a b) ∨ f64Frac (fsub a b) % 2 = 0))

/-- R131: a finite product is the exact one rounded once to nearest, and a tie goes to the even fraction. The exact
product of two counts of `2^-1074` counts `2^-2148`. -/
def Obligations.ProductIsRoundedToNearest : Prop :=
  ∀ a b x : F64, f64IsFinite a = true → f64IsFinite b = true → f64IsFinite x = true → f64IsFinite (fmul a b) = true →
    (f64Units (fmul a b) * 2 ^ 1074 - f64Units a * f64Units b).natAbs ≤
      (f64Units x * 2 ^ 1074 - f64Units a * f64Units b).natAbs ∧
    ((f64Units (fmul a b) * 2 ^ 1074 - f64Units a * f64Units b).natAbs =
        (f64Units x * 2 ^ 1074 - f64Units a * f64Units b).natAbs →
      f64Units x = f64Units (fmul a b) ∨ f64Frac (fmul a b) % 2 = 0)

/-- R13: `f64(n)` is exact below `2^53`. -/
def Obligations.SmallIntegersAreExact : Prop :=
  ∀ n : Nat, n < 2 ^ 53 → f64IsFinite (f64OfNat n) = true ∧ f64Units (f64OfNat n) = (n : Int) * 2 ^ 1074

/-- R101, R131: under the default configuration every `HEUR` entry and every EVAL result is finite, so no free value
of the arithmetic is ever reached. -/
def Obligations.ScoresAreFinite : Prop :=
  (∀ p : Pattern, f64IsFinite (heur Config.default p) = true) ∧
  ∀ b : Board, f64IsFinite (evalBoard (tableEntry Config.default) b) = true

/-! ### XPOSE (43_xpose.md) -/

/-- R141, R142: XPOSE answers with the board whose cell `(r, c)` is cell `(c, r)` of the operand, whatever the
tables hold. -/
def Obligations.XposeExchangesRowsAndColumns : Prop :=
  ∀ (b : Board) (s : State), s.cur < s.ports.length →
    ∃ d, exec (.xpose b) s = .next (s.answered (rspWord 0x00#8 d)) ∧ ∀ r < 4, ∀ c < 4, cell d r c = cell b c r

/-- R144. -/
def Obligations.TransposeIsAnInvolution : Prop := ∀ b : Board, transpose (transpose b) = b

/-- R143: the mask sequence computes the transpose. -/
def Obligations.MaskSequenceTransposes : Prop := ∀ b : Board, transposeByMasks b = transpose b

/-! ### What a command leaves unchanged -/

/-- R29, R42, R46: MOVE.UP, MOVE.DOWN, MOVE.LEFT, MOVE.RIGHT, EVAL and XPOSE append one response to the current port's
queue, and every other piece of state, each table location among them, is as before. -/
def Obligations.CommandsOnlyAppendOneResponse : Prop :=
  ∀ (i : Instr) (s t : State), exec i s = .next t →
    t.cfg = s.cfg ∧ t.ready = s.ready ∧ t.resetAsserted = s.resetAsserted ∧ t.mem = s.mem ∧ t.cur = s.cur ∧
    t.turns = s.turns ∧ t.ports.length = s.ports.length ∧
    (∀ p, p ≠ s.cur → t.ports[p]? = s.ports[p]?) ∧
    (∀ q : Port, s.ports[s.cur]? = some q → ∃ r, t.ports[s.cur]? = some { q with rspq := q.rspq ++ [r] }) ∧
    ∀ tb p, memRead t tb p = memRead s tb p

/-! ### Reset, BUILD and the ports (10_state.md, 20_memory.md, 60_exceptions.md, 70_reset_and_hazards.md) -/

/-- R181: right after reset `ready` is 0, every response queue is empty and no table location is written. -/
def Obligations.ResetStateIsUnready : Prop :=
  State.reset.ready = false ∧ State.reset.resetAsserted = false ∧ (∀ q ∈ State.reset.ports, q.rspq = []) ∧
  ∀ tb p, State.reset.mem.written tb p = false

/-- R191, R181: asserting reset, in every state, clears `ready`, loses every response that waits, and leaves no
location written. What the host offers and what it has taken stay, and the configuration too. That all this happens at
the assertion is the model's reading (notes/assumptions/9.md). -/
def Obligations.ResetDropsWaitingResponses : Prop :=
  ∀ s : State, nextTurn s = .assertReset →
    ∃ t, step s = .next t ∧ t.ready = false ∧ t.resetAsserted = true ∧ t.cfg = s.cfg ∧
      t.ports.length = s.ports.length ∧
      (∀ (p : Nat) (q : Port), s.ports[p]? = some q → t.ports[p]? = some { q with rspq := [] }) ∧
      ∀ tb p, t.mem.written tb p = false

/-- R180, R182: releasing reset, in every state, lets the reset level fall and changes nothing else. Released from an
asserted reset the block is in the state R181 lists, and BUILD is the next to act unless other turns are listed. That
reset has cleared all this by then is the model's reading (notes/assumptions/9.md), and that BUILD's turn is the one
that comes of itself (notes/assumptions/7.md) and makes one visit (notes/assumptions/2.md) is its choice. -/
def Obligations.ReleaseOfResetStartsBuild : Prop :=
  ∀ s : State, nextTurn s = .releaseReset →
    ∃ t, step s = .next t ∧ t.resetAsserted = false ∧ t.cfg = s.cfg ∧ t.ready = s.ready ∧ t.mem = s.mem ∧
      t.ports = s.ports ∧ t.cur = s.cur ∧ t.turns = s.turns.tail ∧ (∀ tb p, memRead t tb p = memRead s tb p) ∧
      (s.Inv → s.resetAsserted = true →
        t.ready = false ∧ (∀ q ∈ t.ports, q.rspq = []) ∧ (∀ tb p, t.mem.written tb p = false) ∧
          (t.turns = [] → nextTurn t = .build) ∧
          (nextTurn t = .build → ∃ u, step t = .next u ∧ u.mem.visited = 1))

/-- R80, R81: a visit of BUILD writes the five locations of one pattern with the contents of R81 and leaves every
other location, and all else, as it was. That BUILD takes one visit a turn in ascending order is the model's choice
(notes/assumptions/2.md). -/
def Obligations.BuildVisitWritesFiveLocations : Prop :=
  ∀ (s : State) (p : Pattern), nextTurn s = .build → s.resetAsserted = false → s.ready = false →
    s.mem.visited = p.toNat →
    ∃ t, step s = .next t ∧ t.ready = false ∧ t.ports = s.ports ∧ t.cfg = s.cfg ∧
      memRead t .rowl p = p ^^^ slideL p ∧ memRead t .rowr (rev p) = rev p ^^^ slideR (rev p) ∧
      memRead t .colu p = spread p ^^^ spread (slideL p) ∧
      memRead t .cold (rev p) = spread (rev p) ^^^ spread (slideR (rev p)) ∧
      memRead t .heur p = heur s.cfg p ∧
      ∀ tb q, writingVisit tb q ≠ p → memRead t tb q = memRead s tb q

/-- R182: left to itself after reset, BUILD ends. `ready` is 0 until every location holds its value and 1 from then
on. That it takes one turn a visit is the model's choice (notes/assumptions/2.md). -/
def Obligations.BuildEndsAndThenReady : Prop :=
  ∀ s : State, s.turns = [] → s.resetAsserted = false → s.ready = false → s.mem.wf = true →
    (∀ k ≤ 65536 - s.mem.visited, ∃ t : State, Host.Core.run Sys2Proof.core k s = .next t ∧ t.ready = false) ∧
    ∃ t : State, Host.Core.run Sys2Proof.core (65536 - s.mem.visited + 1) s = .next t ∧ t.ready = true ∧
      t.ports = s.ports ∧ t.cfg = s.cfg ∧ ∀ tb p, memRead t tb p = tableEntry s.cfg tb p

/-- R31: `ready` stays 1 until the next reset, and only the end of BUILD sets it. -/
def Obligations.ReadyFallsOnlyAtReset : Prop :=
  ∀ s t : State, step s = .next t →
    (s.ready = true → nextTurn s ≠ .assertReset → t.ready = true) ∧
    (s.ready = false → t.ready = true → nextTurn s = .build ∧ s.mem.complete = true)

/-- R49: only a turn of BUILD before `ready = 1`, or a reset, can change what any table reads as, and from `ready = 1` on every
read gives the contents of R81. -/
def Obligations.TablesChangeOnlyByBuild : Prop :=
  ∀ s t : State, step s = .next t → nextTurn s ≠ .assertReset →
    ((nextTurn s ≠ .build ∨ s.ready = true) → ∀ tb p, memRead t tb p = memRead s tb p) ∧
    (s.Inv → s.ready = true → ∀ tb p, memRead s tb p = tableEntry s.cfg tb p ∧ memRead t tb p = tableEntry s.cfg tb p)

/-- R30: no step changes the parameters, and none the number of ports. -/
def Obligations.ParametersNeverChange : Prop :=
  ∀ s t : State, step s = .next t → t.cfg = s.cfg ∧ t.ports.length = s.ports.length

/-- R185, R187, R34: while `ready` is 0, or the port's queue is full, the port's turn accepts nothing: every port, its
offered words among it, the table memory and `ready` are as before. -/
def Obligations.PortsHoldCommandsTheyCannotAccept : Prop :=
  ∀ (s : State) (p : Nat) (q : Port), nextTurn s = .serve p → s.ports[p]? = some q →
    (s.ready = false ∨ ∃ m, s.cfg.maxOutstanding = some m ∧ m ≤ q.rspq.length) →
    ∃ t, step s = .next t ∧ t.ports = s.ports ∧ t.mem = s.mem ∧ t.ready = s.ready ∧
      t.resetAsserted = s.resetAsserted ∧ t.cfg = s.cfg ∧ t.turns = s.turns.tail ∧ t.cur = p

/-- R34: a command is accepted when `ready = 1` and the queue has room, and its acceptance appends its response. The
other ports are as before. -/
def Obligations.AcceptedCommandsAreAnsweredInOrder : Prop :=
  ∀ (s : State) (p : Nat) (q : Port) (w : CmdWord) (ws : List CmdWord),
    nextTurn s = .serve p → s.ports[p]? = some q → q.offered = w :: ws → s.ready = true → s.built →
    (∀ m, s.cfg.maxOutstanding = some m → q.rspq.length < m) →
    ∃ t, step s = .next t ∧
      t.ports[p]? = some ⟨ws, q.rspq ++ [response s.cfg w], q.taken⟩ ∧
      ∀ p', p' ≠ p → t.ports[p']? = s.ports[p']?

/-- R34, R192: the host taking a response removes the head of the queue and leaves the others unchanged. That a take from
an empty queue changes nothing is the model's reading (notes/assumptions/11.md). -/
def Obligations.HostTakesTheOldestResponse : Prop :=
  ∀ (s : State) (p : Nat) (q : Port), nextTurn s = .take p → s.ports[p]? = some q →
    ∃ t, step s = .next t ∧ (∀ p', p' ≠ p → t.ports[p']? = s.ports[p']?) ∧
      (∀ r rs, q.rspq = r :: rs → t.ports[p]? = some ⟨q.offered, rs, q.taken ++ [r]⟩) ∧
      (q.rspq = [] → t.ports[p]? = some q)

/-- R66, R69: a port's turn on an acceptable word that decodes to a command runs that command on that port, after the
word has left the command channel. -/
def Obligations.StepRunsTheDecodedCommand : Prop :=
  ∀ (s : State) (p : Nat) (q : Port) (w : CmdWord) (ws : List CmdWord) (i : Instr),
    nextTurn s = .serve p → s.ports[p]? = some q → q.offered = w :: ws → mayAccept s q = true →
    decodeWord w = .legal i → step s = exec i (accept p (atPort p (dropTurn s)))

/-- The word that `withFetchWord` places is the one the next step runs (notes/assumptions/8.md). -/
def Obligations.PlacedWordRunsNext : Prop :=
  ∀ (s : State) (nbits w : Nat) (i : Instr), s.cfg.wf = true → s.cur < s.ports.length →
    decodeTableWord nbits w = some i →
    step (s.withFetchWord nbits w) = exec i (accept s.cur (dropTurn (s.withFetchWord nbits w)))

/-- The reset state meets the invariant. -/
def Obligations.ResetStateMeetsTheInvariant : Prop := State.reset.Inv

/-- R20, R31, R34, R64, R181, R182: every step keeps the invariant. Its clauses about the time between the assertion and
the release of reset (`reset_unready`, `reset_unbuilt`, and `unready_empty` there) are the model's reading, since R181
and R182 speak of the state after the release (notes/assumptions/9.md). -/
def Obligations.StepKeepsTheInvariant : Prop := ∀ s t : State, s.Inv → step s = .next t → t.Inv

/-- R150, R166: from every state that meets the invariant the machine goes on: no command can fail, and no board and
no opcode stops it. -/
def Obligations.MachineNeverStops : Prop := ∀ s : State, s.Inv → s.goesOn

/-- R66: every step but a reset keeps, on every port, the answers given and still to give in their order, with those of
the words newly offered at the end: none is dropped, duplicated or reordered. -/
def Obligations.AnswersAreNeverLostOrReordered : Prop :=
  ∀ (s t : State) (p : Nat) (q : Port), s.Inv → nextTurn s ≠ .assertReset → step s = .next t →
    s.ports[p]? = some q →
    ∃ q', t.ports[p]? = some q' ∧
      q'.transcript t.cfg = q.transcript s.cfg ++ (offersOn p (nextTurn s)).map (response s.cfg)

/-- R190: the outcome of a run of port `p` over a finite command list, no reset asserted during it, is the list of the
responses to the commands in their order, whatever the interleaving with the other ports and the host. -/
def Obligations.RunAnswersTheCommandList : Prop :=
  ∀ (k : Nat) (s t : State) (p : Nat) (q q' : Port), s.Inv →
    (∀ x ∈ s.turns, x ≠ .assertReset ∧ offersOn p x = []) →
    Host.Core.run Sys2Proof.core k s = .next t → s.ports[p]? = some q → q.rspq = [] → q.taken = [] →
    t.ports[p]? = some q' → q'.offered = [] → q'.rspq = [] →
    q'.taken = q.offered.map (response s.cfg)

/-- R192, R161: what a port's host can see does not depend on the other ports' commands and responses. -/
def Obligations.OtherPortsTrafficIsInvisible : Prop :=
  ∀ (p : Nat) (s t s' t' : State), State.SameFor p s t → step s = .next s' → step t = .next t' →
    State.SameFor p s' t'

/-- R189: an offered command is accepted and answered within one round of the ports, once the block is ready and the
port's queue has room, when no other turns are listed. That the ports then take turns is the model's choice
(notes/assumptions/7.md). -/
def Obligations.OfferedCommandsAreAcceptedInARound : Prop :=
  ∀ (s : State) (p : Nat) (q : Port) (w : CmdWord) (ws : List CmdWord), s.Inv → s.turns = [] → s.ready = true →
    s.ports[p]? = some q → q.offered = w :: ws →
    (∀ m, s.cfg.maxOutstanding = some m → q.rspq.length < m) →
    ∃ (k : Nat) (t : State), k ≤ s.cfg.nports ∧ Host.Core.run Sys2Proof.core k s = .next t ∧
      t.ports[p]? = some ⟨ws, q.rspq ++ [response s.cfg w], q.taken⟩
end

