-- ==== Sys2Proof/Laws/Bits.lean ====
section
/-! SUPPORT. The laws of the nibble and row accessors: how they read what `mk4`, `mkboard`, `spread`, `rev` and
`transpose` build, and that a word is given by its nibbles. -/

namespace Sys2Proof.Machine

theorem nib_bit {w : Nat} (v : BitVec w) (i k : Nat) :
    (nib v i).getLsbD k = (decide (k < 4) && v.getLsbD (4 * i + k)) := by
  simp [nib, BitVec.getLsbD_extractLsb']

theorem row_bit (b : Board) (r k : Nat) :
    (row b r).getLsbD k = (decide (k < 16) && b.getLsbD (16 * r + k)) := by
  simp [row, BitVec.getLsbD_extractLsb']

theorem mk4_bit (n0 n1 n2 n3 : Rank) (k : Nat) (h : k < 16) :
    (mk4 n0 n1 n2 n3).getLsbD k = ([n0, n1, n2, n3].getD (k / 4) 0).getLsbD (k % 4) := by
  interval_cases k <;> simp [mk4]

theorem mkboard_bit (p0 p1 p2 p3 : Pattern) (k : Nat) (h : k < 64) :
    (mkboard p0 p1 p2 p3).getLsbD k = ([p0, p1, p2, p3].getD (k / 16) 0).getLsbD (k % 16) := by
  interval_cases k <;> simp [mkboard]

theorem spread_bit (p : Pattern) (k : Nat) (h : k < 64) :
    (spread p).getLsbD k = (decide (k % 16 < 4) && (nib p (k / 16)).getLsbD (k % 16)) := by
  interval_cases k <;> simp [spread]

/-- A pattern is given by its four nibbles. -/
theorem pattern_ext {p q : Pattern} (h : ∀ k < 4, nib p k = nib q k) : p = q := by
  apply BitVec.eq_of_getLsbD_eq
  intro k hk
  have hb := congrArg (fun v => v.getLsbD (k % 4)) (h (k / 4) (by omega))
  simp only [nib_bit] at hb
  simpa only [show k % 4 < 4 by omega, show 4 * (k / 4) + k % 4 = k by omega, decide_true, Bool.true_and] using hb

/-- A board is given by its four rows. -/
theorem board_ext_row {a b : Board} (h : ∀ r < 4, row a r = row b r) : a = b := by
  apply BitVec.eq_of_getLsbD_eq
  intro k hk
  have hb := congrArg (fun v => v.getLsbD (k % 16)) (h (k / 16) (by omega))
  simp only [row_bit] at hb
  simpa only [show k % 16 < 16 by omega, show 16 * (k / 16) + k % 16 = k by omega, decide_true, Bool.true_and] using hb

/-- Nibble `k` of row `r` is cell `(r, k)` (20_memory.md R43). -/
@[simp] theorem nib_row (b : Board) (r k : Nat) (hk : k < 4) : nib (row b r) k = cell b r k := by
  apply BitVec.eq_of_getLsbD_eq
  intro j hj
  simp only [cell, nib_bit, row_bit]
  simp [hj, show 4 * k + j < 16 by omega, show 16 * r + (4 * k + j) = 4 * (4 * r + k) + j by omega]

/-- A board is given by its sixteen cells. -/
theorem board_ext_cell {a b : Board} (h : ∀ r < 4, ∀ c < 4, cell a r c = cell b r c) : a = b :=
  board_ext_row fun r hr => pattern_ext fun k hk => by rw [nib_row _ _ _ hk, nib_row _ _ _ hk, h r hr k hk]

theorem nib_mk4 (n0 n1 n2 n3 : Rank) (k : Nat) (hk : k < 4) : nib (mk4 n0 n1 n2 n3) k = [n0, n1, n2, n3].getD k 0 := by
  apply BitVec.eq_of_getLsbD_eq
  intro j hj
  rw [nib_bit, mk4_bit _ _ _ _ _ (by omega), show (4 * k + j) / 4 = k by omega, show (4 * k + j) % 4 = j by omega]
  simp only [hj, decide_true, Bool.true_and]

@[simp] theorem nib_mk4_0 (n0 n1 n2 n3 : Rank) : nib (mk4 n0 n1 n2 n3) 0 = n0 := nib_mk4 _ _ _ _ 0 (by decide)
@[simp] theorem nib_mk4_1 (n0 n1 n2 n3 : Rank) : nib (mk4 n0 n1 n2 n3) 1 = n1 := nib_mk4 _ _ _ _ 1 (by decide)
@[simp] theorem nib_mk4_2 (n0 n1 n2 n3 : Rank) : nib (mk4 n0 n1 n2 n3) 2 = n2 := nib_mk4 _ _ _ _ 2 (by decide)
@[simp] theorem nib_mk4_3 (n0 n1 n2 n3 : Rank) : nib (mk4 n0 n1 n2 n3) 3 = n3 := nib_mk4 _ _ _ _ 3 (by decide)

theorem row_mkboard (p0 p1 p2 p3 : Pattern) (r : Nat) (hr : r < 4) :
    row (mkboard p0 p1 p2 p3) r = [p0, p1, p2, p3].getD r 0 := by
  apply BitVec.eq_of_getLsbD_eq
  intro j hj
  rw [row_bit, mkboard_bit _ _ _ _ _ (by omega), show (16 * r + j) / 16 = r by omega,
    show (16 * r + j) % 16 = j by omega]
  simp only [hj, decide_true, Bool.true_and]

@[simp] theorem row_mkboard_0 (p0 p1 p2 p3 : Pattern) : row (mkboard p0 p1 p2 p3) 0 = p0 :=
  row_mkboard _ _ _ _ 0 (by decide)
@[simp] theorem row_mkboard_1 (p0 p1 p2 p3 : Pattern) : row (mkboard p0 p1 p2 p3) 1 = p1 :=
  row_mkboard _ _ _ _ 1 (by decide)
@[simp] theorem row_mkboard_2 (p0 p1 p2 p3 : Pattern) : row (mkboard p0 p1 p2 p3) 2 = p2 :=
  row_mkboard _ _ _ _ 2 (by decide)
@[simp] theorem row_mkboard_3 (p0 p1 p2 p3 : Pattern) : row (mkboard p0 p1 p2 p3) 3 = p3 :=
  row_mkboard _ _ _ _ 3 (by decide)

@[simp] theorem nib_xor {w : Nat} (a b : BitVec w) (i : Nat) : nib (a ^^^ b) i = nib a i ^^^ nib b i := by
  apply BitVec.eq_of_getLsbD_eq
  intro k hk
  simp only [nib_bit, BitVec.getLsbD_xor, hk, decide_true, Bool.true_and]

@[simp] theorem row_xor (a b : Board) (r : Nat) : row (a ^^^ b) r = row a r ^^^ row b r := by
  apply BitVec.eq_of_getLsbD_eq
  intro k hk
  simp only [row_bit, BitVec.getLsbD_xor, hk, decide_true, Bool.true_and]

@[simp] theorem cell_xor (a b : Board) (r c : Nat) : cell (a ^^^ b) r c = cell a r c ^^^ cell b r c := nib_xor a b _

/-- Row `r` of the transpose is column `r` (43_xpose.md R141). -/
theorem row_transpose (b : Board) (r : Nat) (hr : r < 4) : row (transpose b) r = column b r := by
  interval_cases r <;> simp [transpose]

theorem nib_column (b : Board) (c k : Nat) (hk : k < 4) : nib (column b c) k = cell b k c := by
  interval_cases k <;> simp [column]

/-- Nibble `k` of a pattern is cell `(k, 0)` of its spread (40_table_generator.md R89). -/
theorem cell_spread (p : Pattern) (r c : Nat) (hr : r < 4) (hc : c < 4) :
    cell (spread p) r c = if c = 0 then nib p r else 0 := by
  apply BitVec.eq_of_getLsbD_eq
  intro k hk
  rw [cell, nib_bit, spread_bit _ _ (by omega), show (4 * (4 * r + c) + k) / 16 = r by omega,
    show (4 * (4 * r + c) + k) % 16 = 4 * c + k by omega]
  by_cases h : c = 0
  · subst h
    simp only [hk, decide_true, Bool.true_and, if_true, Nat.mul_zero, Nat.zero_add]
  · rw [if_neg h]
    simp [show ¬ 4 * c + k < 4 by omega]

end Sys2Proof.Machine
end

