-- ==== Sys2Proof/Laws/Memory.lean ====
section
/-! SUPPORT. The laws of the table memory: every operation keeps its canonical form, and a complete memory reads as
the built tables. -/

namespace Sys2Proof.Machine

theorem Memory.wf_iff (m : Memory) : m.wf = true ↔ m.visited ≤ 65536 := by simp [Memory.wf]

theorem Memory.complete_iff (m : Memory) : m.complete = true ↔ 65536 ≤ m.visited := by
  unfold Memory.complete buildVisits
  exact decide_eq_true_iff

theorem Memory.visit_wf (m : Memory) (h : m.wf = true) : m.visit.wf = true := by
  rw [Memory.wf_iff] at h ⊢
  unfold Memory.visit buildVisits
  split
  · simp only; omega
  · exact h

theorem Memory.clear_wf (m : Memory) : m.clear.wf = true := by simp [Memory.clear, Memory.wf]

/-- The memory that `primeWord` sets is in canonical form and complete. -/
theorem Memory.primed_wf (m : Memory) :
    ({ m with visited := buildVisits } : Memory).wf = true ∧ ({ m with visited := buildVisits } : Memory).complete = true :=
  ⟨(Memory.wf_iff _).2 (by simp [buildVisits]), (Memory.complete_iff _).2 (by simp [buildVisits])⟩

theorem Memory.reset_wf : State.reset.mem.wf = true := by decide

@[simp] theorem Memory.visit_epoch (m : Memory) : m.visit.epoch = m.epoch := by
  unfold Memory.visit; split <;> rfl

/-- A visit before the last moves the count on by one. -/
theorem Memory.visit_visited (m : Memory) (h : m.visited < 65536) : m.visit.visited = m.visited + 1 := by
  simp [Memory.visit, buildVisits, h]

/-- In a complete memory every location is written. -/
theorem Memory.written_of_complete (m : Memory) (h : m.complete = true) (t : Table) (p : Pattern) :
    m.written t p = true := by
  rw [Memory.complete_iff] at h
  have := (writingVisit t p).isLt
  simp only [Memory.written, decide_eq_true_eq]
  omega

/-- A complete memory reads as the built tables (40_table_generator.md R81). -/
theorem Memory.read_of_complete (c : Config) (m : Memory) (h : m.complete = true) : m.read c = tableEntry c := by
  funext t p
  simp [Memory.read, Memory.written_of_complete m h t p]

end Sys2Proof.Machine
end

