-- ==== Sys2Proof/Laws/Operands.lean ====
section
/-! SUPPORT. Where a table entry lands on a board: a row's entry inside that row, a spread column's entry inside
that column (41_move.md R110). -/

namespace Sys2Proof.Machine

theorem row_atRow (k r : Nat) (d : BitVec 16) (hk : k < 4) (hr : r < 4) :
    row (atRow k d) r = if r = k then d else 0 := by
  apply BitVec.eq_of_getLsbD_eq
  intro j hj
  rw [row_bit, atRow, BitVec.getLsbD_shiftLeft, BitVec.getLsbD_setWidth]
  by_cases h : r = k
  · subst h
    simp only [hj, show 16 * r + j < 64 by omega, show ¬ 16 * r + j < 16 * r by omega,
      show 16 * r + j - 16 * r = j by omega, show j < 64 by omega, decide_true, decide_false, Bool.not_false,
      Bool.true_and, if_true]
  · rw [if_neg h]
    by_cases hlt : 16 * r + j < 16 * k
    · simp [hlt]
    · have hge : 16 ≤ 16 * r + j - 16 * k := by omega
      simp [BitVec.getLsbD_of_ge d _ hge]

theorem cell_atColumn_spread (c0 r c : Nat) (p : Pattern) (h0 : c0 < 4) (hr : r < 4) (hc : c < 4) :
    cell (atColumn c0 (spread p)) r c = if c = c0 then nib p r else 0 := by
  apply BitVec.eq_of_getLsbD_eq
  intro j hj
  rw [cell, nib_bit, atColumn, BitVec.getLsbD_shiftLeft]
  by_cases h : c = c0
  · subst h
    rw [spread_bit _ _ (by omega), show (4 * (4 * r + c) + j - 4 * c) % 16 = j by omega,
      show (4 * (4 * r + c) + j - 4 * c) / 16 = r by omega]
    simp [hj, show 4 * (4 * r + c) + j < 64 by omega, show ¬ 4 * (4 * r + c) + j < 4 * c by omega]
  · rw [if_neg h]
    by_cases hlt : 4 * (4 * r + c) + j < 4 * c0
    · simp [hlt]
    · rw [spread_bit _ _ (by omega)]
      have : ¬ (4 * (4 * r + c) + j - 4 * c0) % 16 < 4 := by omega
      simp [this]

end Sys2Proof.Machine
end

