-- ==== Sys2Proof/Laws/State.lean ====
section
/-! SUPPORT. One lemma per field for each named update of the state, so that no proof unfolds a record update. -/

namespace Sys2Proof.Machine

section ModPort
variable (p : Nat) (f : Port → Port) (s : State)
@[simp] theorem modPort_cfg : (modPort p f s).cfg = s.cfg := rfl
@[simp] theorem modPort_ready : (modPort p f s).ready = s.ready := rfl
@[simp] theorem modPort_resetAsserted : (modPort p f s).resetAsserted = s.resetAsserted := rfl
@[simp] theorem modPort_mem : (modPort p f s).mem = s.mem := rfl
@[simp] theorem modPort_ports : (modPort p f s).ports = s.ports.modify p f := rfl
@[simp] theorem modPort_cur : (modPort p f s).cur = s.cur := rfl
@[simp] theorem modPort_turns : (modPort p f s).turns = s.turns := rfl
end ModPort

section AtPort
variable (p : Nat) (s : State)
@[simp] theorem atPort_cfg : (atPort p s).cfg = s.cfg := rfl
@[simp] theorem atPort_ready : (atPort p s).ready = s.ready := rfl
@[simp] theorem atPort_resetAsserted : (atPort p s).resetAsserted = s.resetAsserted := rfl
@[simp] theorem atPort_mem : (atPort p s).mem = s.mem := rfl
@[simp] theorem atPort_ports : (atPort p s).ports = s.ports := rfl
@[simp] theorem atPort_cur : (atPort p s).cur = p := rfl
@[simp] theorem atPort_turns : (atPort p s).turns = s.turns := rfl
end AtPort

section Accept
variable (p : Nat) (s : State)
@[simp] theorem accept_cfg : (accept p s).cfg = s.cfg := rfl
@[simp] theorem accept_ready : (accept p s).ready = s.ready := rfl
@[simp] theorem accept_resetAsserted : (accept p s).resetAsserted = s.resetAsserted := rfl
@[simp] theorem accept_mem : (accept p s).mem = s.mem := rfl
@[simp] theorem accept_ports : (accept p s).ports = s.ports.modify p Port.acceptWord := rfl
@[simp] theorem accept_cur : (accept p s).cur = s.cur := rfl
@[simp] theorem accept_turns : (accept p s).turns = s.turns := rfl
end Accept

section Reset
variable (s : State)
@[simp] theorem resetOn_cfg : (resetOn s).cfg = s.cfg := rfl
@[simp] theorem resetOn_ready : (resetOn s).ready = false := rfl
@[simp] theorem resetOn_resetAsserted : (resetOn s).resetAsserted = true := rfl
@[simp] theorem resetOn_mem : (resetOn s).mem = s.mem.clear := rfl
@[simp] theorem resetOn_ports : (resetOn s).ports = s.ports.map Port.dropResponses := rfl
@[simp] theorem resetOn_cur : (resetOn s).cur = s.cur := rfl
@[simp] theorem resetOn_turns : (resetOn s).turns = s.turns := rfl
@[simp] theorem resetOff_cfg : (resetOff s).cfg = s.cfg := rfl
@[simp] theorem resetOff_ready : (resetOff s).ready = s.ready := rfl
@[simp] theorem resetOff_resetAsserted : (resetOff s).resetAsserted = false := rfl
@[simp] theorem resetOff_mem : (resetOff s).mem = s.mem := rfl
@[simp] theorem resetOff_ports : (resetOff s).ports = s.ports := rfl
@[simp] theorem resetOff_cur : (resetOff s).cur = s.cur := rfl
@[simp] theorem resetOff_turns : (resetOff s).turns = s.turns := rfl
end Reset

section DropTurn
variable (s : State)
@[simp] theorem dropTurn_cfg : (dropTurn s).cfg = s.cfg := rfl
@[simp] theorem dropTurn_ready : (dropTurn s).ready = s.ready := rfl
@[simp] theorem dropTurn_resetAsserted : (dropTurn s).resetAsserted = s.resetAsserted := rfl
@[simp] theorem dropTurn_mem : (dropTurn s).mem = s.mem := rfl
@[simp] theorem dropTurn_ports : (dropTurn s).ports = s.ports := rfl
@[simp] theorem dropTurn_cur : (dropTurn s).cur = s.cur := rfl
@[simp] theorem dropTurn_turns : (dropTurn s).turns = s.turns.tail := rfl
end DropTurn

section PrimeWord
variable (w : CmdWord) (s : State)
@[simp] theorem primeWord_cfg : (primeWord w s).cfg = s.cfg := rfl
@[simp] theorem primeWord_ready : (primeWord w s).ready = true := rfl
@[simp] theorem primeWord_resetAsserted : (primeWord w s).resetAsserted = false := rfl
@[simp] theorem primeWord_mem : (primeWord w s).mem = { s.mem with visited := buildVisits } := rfl
@[simp] theorem primeWord_ports : (primeWord w s).ports = s.ports.modify s.cur (Port.primed s.cfg w) := rfl
@[simp] theorem primeWord_cur : (primeWord w s).cur = s.cur := rfl
@[simp] theorem primeWord_turns : (primeWord w s).turns = .serve s.cur :: s.turns := rfl
end PrimeWord

section Ports
variable (w : BitVec 72) (q : Port)
@[simp] theorem Port.push_offered : (q.push w).offered = q.offered := rfl
@[simp] theorem Port.push_rspq : (q.push w).rspq = q.rspq ++ [w] := rfl
@[simp] theorem Port.push_taken : (q.push w).taken = q.taken := rfl
@[simp] theorem Port.acceptWord_offered : q.acceptWord.offered = q.offered.tail := rfl
@[simp] theorem Port.acceptWord_rspq : q.acceptWord.rspq = q.rspq := rfl
@[simp] theorem Port.acceptWord_taken : q.acceptWord.taken = q.taken := rfl
@[simp] theorem Port.dropResponses_offered : q.dropResponses.offered = q.offered := rfl
@[simp] theorem Port.dropResponses_rspq : q.dropResponses.rspq = [] := rfl
@[simp] theorem Port.dropResponses_taken : q.dropResponses.taken = q.taken := rfl
@[simp] theorem Port.offer_offered : (q.offer w).offered = q.offered ++ [w] := rfl
@[simp] theorem Port.offer_rspq : (q.offer w).rspq = q.rspq := rfl
@[simp] theorem Port.offer_taken : (q.offer w).taken = q.taken := rfl
@[simp] theorem Port.takeOldest_offered : q.takeOldest.offered = q.offered := by
  unfold Port.takeOldest; split <;> rfl
@[simp] theorem Port.takeOldest_rspq : q.takeOldest.rspq = q.rspq.tail := by
  unfold Port.takeOldest; split <;> simp [*]
@[simp] theorem Port.takeOldest_taken : q.takeOldest.taken = q.taken ++ q.rspq.head?.toList := by
  unfold Port.takeOldest; split <;> simp [*]
end Ports

section BuildTurn
variable (s : State)
@[simp] theorem buildTurn_cfg : (buildTurn s).cfg = s.cfg := by unfold buildTurn; split_ifs <;> rfl
@[simp] theorem buildTurn_resetAsserted : (buildTurn s).resetAsserted = s.resetAsserted := by
  unfold buildTurn; split_ifs <;> rfl
@[simp] theorem buildTurn_ports : (buildTurn s).ports = s.ports := by unfold buildTurn; split_ifs <;> rfl
@[simp] theorem buildTurn_cur : (buildTurn s).cur = s.cur := by unfold buildTurn; split_ifs <;> rfl
@[simp] theorem buildTurn_turns : (buildTurn s).turns = s.turns := by unfold buildTurn; split_ifs <;> rfl
end BuildTurn

end Sys2Proof.Machine
end

