-- ==== Sys2Proof/Laws/Ops.lean ====
section
/-! SUPPORT. One lemma for each shared operation and each agent that says all it can do. -/

namespace Sys2Proof.Machine

@[simp] theorem State.answered_cfg (s : State) (w : RspWord) : (s.answered w).cfg = s.cfg := rfl
@[simp] theorem State.answered_ready (s : State) (w : RspWord) : (s.answered w).ready = s.ready := rfl
@[simp] theorem State.answered_resetAsserted (s : State) (w : RspWord) :
    (s.answered w).resetAsserted = s.resetAsserted := rfl
@[simp] theorem State.answered_mem (s : State) (w : RspWord) : (s.answered w).mem = s.mem := rfl
@[simp] theorem State.answered_ports (s : State) (w : RspWord) :
    (s.answered w).ports = s.ports.modify s.cur (Port.push w) := rfl
@[simp] theorem State.answered_cur (s : State) (w : RspWord) : (s.answered w).cur = s.cur := rfl
@[simp] theorem State.answered_turns (s : State) (w : RspWord) : (s.answered w).turns = s.turns := rfl

/-- All that `respond` can do: append the response on the current port, or fault when there is no such port. -/
theorem respond_eq (st : Status) (d : BitVec 64) (s : State) :
    respond st d s =
      if s.cur < s.ports.length then .next (s.answered (rspWord st d)) else .fault (.noSuchPort s.cur) := rfl

theorem respond_next {st : Status} {d : BitVec 64} {s t : State} (h : respond st d s = .next t) :
    s.cur < s.ports.length ∧ t = s.answered (rspWord st d) := by
  rw [respond_eq] at h
  split at h
  · exact ⟨‹_›, by cases h; rfl⟩
  · cases h

theorem respond_of_lt (st : Status) (d : BitVec 64) {s : State} (h : s.cur < s.ports.length) :
    respond st d s = .next (s.answered (rspWord st d)) := by rw [respond_eq, if_pos h]

/-- Every command's meaning is one response, whose data is the command's result under the tables of the state. -/
theorem exec_eq (i : Instr) (s : State) : exec i s = respond statusOk (resultOf (memRead s) i) s := by
  cases i <;> rfl

/-- The execution of an accepted word is one response, legal or not. -/
theorem execWord_eq (w : CmdWord) (s : State) :
    execWord w s =
      if s.cur < s.ports.length then .next (s.answered (answerOf (memRead s) (decodeWord w)))
      else .fault (.noSuchPort s.cur) := by
  unfold execWord
  split
  · rename_i i hi
    rw [exec_eq, respond_eq, hi]
    rfl
  · rename_i op hop
    rw [hop]
    rfl

/-- Once BUILD has ended the tables read as built (40_table_generator.md R81). -/
theorem memRead_of_built {s : State} (h : s.built) : memRead s = tableEntry s.cfg :=
  Memory.read_of_complete s.cfg s.mem h

theorem onPort_next {p : Nat} {f : Port → Port} {s t : State} (h : onPort p f s = .next t) :
    p < s.ports.length ∧ t = modPort p f s := by
  unfold onPort at h
  split at h
  · exact ⟨‹_›, by cases h; rfl⟩
  · cases h

/-- All that a port's turn can do when it goes on: nothing is accepted and only the current port changes, or the
word on offer is accepted and answered. -/
theorem serve_next {p : Nat} {s t : State} (h : serve p s = .next t) :
    ∃ q, s.ports[p]? = some q ∧
      ((t = atPort p s ∧ (q.offered = [] ∨ mayAccept s q = false)) ∨
       (∃ w ws, q.offered = w :: ws ∧ mayAccept s q = true ∧
          t = (accept p (atPort p s)).answered (answerOf (memRead s) (decodeWord w)))) := by
  unfold serve at h
  split at h
  · cases h
  · rename_i q hq
    refine ⟨q, hq, ?_⟩
    split at h
    · rename_i ho
      exact .inl ⟨by cases h; rfl, .inl ho⟩
    · rename_i w ws ho
      split at h
      · rename_i ha
        rw [execWord_eq] at h
        split at h
        · exact .inr ⟨w, ws, ho, ha, by cases h; rfl⟩
        · cases h
      · rename_i ha
        exact .inl ⟨by cases h; rfl, .inr (by simpa using ha)⟩

/-- A port's turn goes on when the port exists. -/
theorem serve_goes_on (p : Nat) (s : State) (h : p < s.ports.length) : ∃ t, serve p s = .next t := by
  unfold serve
  split
  · rename_i hn
    rw [List.getElem?_eq_none_iff] at hn
    omega
  · split
    · exact ⟨_, rfl⟩
    · split
      · rw [execWord_eq, if_pos (by simpa using h)]
        exact ⟨_, rfl⟩
      · exact ⟨_, rfl⟩

end Sys2Proof.Machine
end

