-- ==== Sys2Proof/Laws/PerInstr.lean ====
section
/-! SUPPORT. Facts about each command as syntax, one lemma a constructor. -/

namespace Sys2Proof.Laws.Opcode

/-- The opcode map read at a command's own opcode gives the command back, and bits 7:3 of the opcode are zero
(30_encoding.md R61, R62). -/
def Statement (i : Instr) : Prop :=
  decodeOp i.opcode i.board = .legal i ∧ i.opcode.extractLsb' 3 5 = 0

theorem moveUp (b : Board) : Statement (.moveUp b) := ⟨rfl, by simp [Instr.opcode]⟩
theorem moveDown (b : Board) : Statement (.moveDown b) := ⟨rfl, by simp [Instr.opcode]⟩
theorem moveLeft (b : Board) : Statement (.moveLeft b) := ⟨rfl, by simp [Instr.opcode]⟩
theorem moveRight (b : Board) : Statement (.moveRight b) := ⟨rfl, by simp [Instr.opcode]⟩
theorem eval (b : Board) : Statement (.eval b) := ⟨rfl, by simp [Instr.opcode]⟩
theorem xpose (b : Board) : Statement (.xpose b) := ⟨rfl, by simp [Instr.opcode]⟩

end Sys2Proof.Laws.Opcode
end

