-- ==== Sys2Proof/Laws/Step.lean ====
section
/-! SUPPORT. What one step can do, said once, and how a change of one port shows in the list of ports. -/

namespace Sys2Proof.Machine

/-- All that a step can do when it goes on: one of the six turns. -/
theorem step_next {s t : State} (h : step s = .next t) :
    (∃ p w, nextTurn s = .offer p w ∧ p < s.ports.length ∧ t = modPort p (Port.offer w) (dropTurn s)) ∨
    (∃ p, nextTurn s = .take p ∧ p < s.ports.length ∧ t = modPort p Port.takeOldest (dropTurn s)) ∨
    (nextTurn s = .assertReset ∧ t = resetOn (dropTurn s)) ∨
    (nextTurn s = .releaseReset ∧ t = resetOff (dropTurn s)) ∨
    (nextTurn s = .build ∧ t = buildTurn (dropTurn s)) ∨
    (∃ p, nextTurn s = .serve p ∧ serve p (dropTurn s) = .next t) := by
  unfold step at h
  cases hn : nextTurn s with
  | offer p w =>
    rw [hn] at h
    obtain ⟨hp, ht⟩ := onPort_next h
    exact .inl ⟨p, w, rfl, hp, ht⟩
  | take p =>
    rw [hn] at h
    obtain ⟨hp, ht⟩ := onPort_next h
    exact .inr (.inl ⟨p, rfl, hp, ht⟩)
  | assertReset =>
    rw [hn] at h
    cases h
    exact .inr (.inr (.inl ⟨rfl, rfl⟩))
  | releaseReset =>
    rw [hn] at h
    cases h
    exact .inr (.inr (.inr (.inl ⟨rfl, rfl⟩)))
  | build =>
    rw [hn] at h
    cases h
    exact .inr (.inr (.inr (.inr (.inl ⟨rfl, rfl⟩))))
  | serve p =>
    rw [hn] at h
    exact .inr (.inr (.inr (.inr (.inr ⟨p, rfl, h⟩))))

/-- What a step does, by the turn that comes next. -/
theorem step_of_turn {s : State} {x : Turn} (h : nextTurn s = x) : step s = runTurn x (dropTurn s) := by
  rw [step, h]

/-- A port of a changed list is an old port, or the changed one. -/
theorem mem_modify_port {l : List Port} {p : Nat} {f : Port → Port} {q : Port} (h : q ∈ l.modify p f) :
    q ∈ l ∨ ∃ r, l[p]? = some r ∧ q = f r := by
  rw [List.mem_iff_getElem?] at h
  obtain ⟨j, hj⟩ := h
  rw [List.getElem?_modify] at hj
  cases hl : l[j]? with
  | none => simp [hl] at hj
  | some r =>
    by_cases hpj : p = j
    · subst hpj
      exact .inr ⟨r, hl, by simpa [hl] using hj.symm⟩
    · refine .inl (List.mem_of_getElem? (i := j) ?_)
      simpa [hl, hpj] using hj

/-- The changed port after a change. -/
theorem getElem?_modify_self {l : List Port} {p : Nat} {f : Port → Port} {q : Port} (h : l[p]? = some q) :
    (l.modify p f)[p]? = some (f q) := by
  simp [h]

/-- Another port after a change. -/
theorem getElem?_modify_ne {l : List Port} {p p' : Nat} {f : Port → Port} (h : p' ≠ p) :
    (l.modify p f)[p']? = l[p']? := by
  simp [Ne.symm h]

end Sys2Proof.Machine
end

