-- ==== Sys2Proof/Laws/Words.lean ====
section
/-! SUPPORT. The fields of the command and response words that `cmdWord` and `rspWord` build. -/

namespace Sys2Proof

/-- The low field of a concatenation. -/
theorem extract_append_low (a : BitVec 64) (b : BitVec 8) : (a ++ b).extractLsb' 0 8 = b := by
  apply BitVec.eq_of_getLsbD_eq
  intro k hk
  rw [BitVec.getLsbD_extractLsb', BitVec.getLsbD_append]
  simp [hk]

/-- The high field of a concatenation. -/
theorem extract_append_high (a : BitVec 64) (b : BitVec 8) : (a ++ b).extractLsb' 8 64 = a := by
  apply BitVec.eq_of_getLsbD_eq
  intro k hk
  rw [BitVec.getLsbD_extractLsb', BitVec.getLsbD_append]
  simp [hk]

@[simp] theorem cmdOp_cmdWord (op : Opcode) (b : Board) : cmdOp (cmdWord op b) = op := extract_append_low b op
@[simp] theorem cmdBoard_cmdWord (op : Opcode) (b : Board) : cmdBoard (cmdWord op b) = b := extract_append_high b op
@[simp] theorem rspStatus_rspWord (st : Status) (d : BitVec 64) : rspStatus (rspWord st d) = st := extract_append_low d st
@[simp] theorem rspData_rspWord (st : Status) (d : BitVec 64) : rspData (rspWord st d) = d := extract_append_high d st

/-- A command word is its two fields (30_encoding.md R61). -/
theorem cmdWord_fields (w : CmdWord) : cmdWord (cmdOp w) (cmdBoard w) = w := by
  apply BitVec.eq_of_getLsbD_eq
  intro k hk
  rw [cmdWord, BitVec.getLsbD_append, cmdOp, cmdBoard, BitVec.getLsbD_extractLsb', BitVec.getLsbD_extractLsb']
  by_cases h : k < 8
  · simp [h]
  · simp [h, show k - 8 < 64 by omega, show 8 + (k - 8) = k by omega]

end Sys2Proof
end

