-- ==== Sys2Proof/Tests/Slice0.lean ====
section
/-! SUPPORT. The model's own tests: smoke tests of the well-formedness checks, words and values copied from
95_test_vectors.md and from the rules' worked examples, and for every statement with hypotheses a concrete state and
operands that meet them. -/

namespace Sys2Proof.Machine

/-! ### Helpers -/

/-- The next state of an outcome. -/
def stateOf : Result → Option State
  | .next s => some s
  | .fault _ => none
  | .refused _ => none

/-- The response queues after an outcome, port by port. -/
def answersOf (r : Result) : Option (List (List RspWord)) := (stateOf r).map fun s => s.ports.map Port.rspq

/-- What one step answers to a command word placed at reset. -/
def answerTo (w : Nat) : Option (List (List RspWord)) := answersOf (step (State.reset.withFetchWord 72 w))

/-- A ready block with two ports of at most two responses. Port 0 offers `move.left` of board A with one response
waiting, and port 1 offers an illegal opcode. -/
def twoPorts : State :=
  { State.reset with
    cfg := { Config.default with nports := 2, maxOutstanding := some 2 }
    ready := true
    mem := ⟨0, 65536⟩
    ports := [⟨[0x333310010000402202#72], [0x000000000000000001#72], []⟩, ⟨[0x0000000000000000FF#72], [], []⟩] }

/-- The same block with the given turns to come. -/
def twoPortsWith (ts : List Turn) : State := { twoPorts with turns := ts }

/-- A block in the middle of BUILD, its next visit the pattern `0x4022`. -/
def building : State := { State.reset with mem := ⟨0, 0x4022⟩ }

/-! ### Well-formedness: each check refuses an ill-formed term -/

theorem test_wf_every_command : (Instr.moveUp 0xFFFFFFFFFFFFFFFF#64).wf = true ∧ (Instr.xpose 0).wf = true := by decide
theorem test_config_wf_default : Config.default.wf = true := by decide
theorem test_config_refuses_no_ports : { Config.default with nports := 0 }.wf = false := by decide
theorem test_config_refuses_no_room : { Config.default with maxOutstanding := some 0 }.wf = false := by decide
theorem test_turn_refuses_missing_port : (Turn.serve 1).wf 1 = false ∧ (Turn.take 0).wf 1 = true := by decide
theorem test_line_refuses_missing_port : (AsmLine.port 2).wf 2 = false ∧ (AsmLine.port 1).wf 2 = true := by decide
theorem test_memory_refuses_too_many_visits : (Memory.mk 0 65537).wf = false ∧ (Memory.mk 0 65536).wf = true := by decide
theorem test_eight_bytes_rejected : decodeBytes (List.replicate 8 0#8) = .error (.wrongLength 8) := by decide
theorem test_missing_port_faults : (stateOf (step (twoPortsWith [.take 2]))) = none := by decide

/-! ### Decoding, with words written out from 30_encoding.md R61 and R62 -/

theorem test_decode_move_up : decodeTableWord 72 0x333310010000402200 = some (.moveUp 0x3333100100004022#64) := by decide
theorem test_decode_move_down : decodeTableWord 72 0x333310010000402201 = some (.moveDown 0x3333100100004022#64) := by decide
theorem test_decode_move_left : decodeTableWord 72 0x333310010000402202 = some (.moveLeft 0x3333100100004022#64) := by decide
theorem test_decode_move_right : decodeTableWord 72 0x333310010000402203 = some (.moveRight 0x3333100100004022#64) := by decide
theorem test_decode_eval : decodeTableWord 72 0x333310010000402204 = some (.eval 0x3333100100004022#64) := by decide
theorem test_decode_xpose : decodeTableWord 72 0xFEDCBA987654321005 = some (.xpose 0xFEDCBA9876543210#64) := by decide
theorem test_decode_high_bit_is_illegal : decodeTableWord 72 0x333310010000402284 = none := by decide
theorem test_decode_short_word : decodeTableWord 8 0x05 = some (.xpose 0) := by decide

/-- V-SER-1 and R72: the bytes `02 22 40 00 00 01 10 33 33`. -/
theorem test_bytes_of_move_left :
    encodeBytes (.moveLeft 0x3333100100004022#64) =
      [0x02#8, 0x22#8, 0x40#8, 0x00#8, 0x00#8, 0x01#8, 0x10#8, 0x33#8, 0x33#8] := by decide

/-! ### One step on a placed word, against 95_test_vectors.md -/

/-- V-MOVE-2. -/
theorem test_move_up_A : answerTo 0x333310010000402200 = some [[0x000030031031432200#72]] := by decide
/-- V-MOVE-16. -/
theorem test_move_down_S : answerTo 0x0000EEEE00FFFFFF01 = some [[0xEEEEFFFF0000000000#72]] := by decide
/-- V-MOVE-17. -/
theorem test_move_left_S : answerTo 0x0000EEEE00FFFFFF02 = some [[0x000000FF000F00FF00#72]] := by decide
/-- V-MOVE-34. -/
theorem test_move_right_G : answerTo 0x776543218765432103 = some [[0x865043218765432100#72]] := by decide
/-- V-EVAL-10, which tells R132's grouping from a flat chain of additions. -/
theorem test_eval_Q : answerTo 0x216363698B529B4A04 = some [[0xC11A3B8BAC28A5BD00#72]] := by decide
/-- V-EVAL-4, with large ranks and a negative score. -/
theorem test_eval_S : answerTo 0x0000EEEE00FFFFFF04 = some [[0xC151A689E4AFDFAE00#72]] := by decide
/-- V-XPOSE-5. -/
theorem test_xpose_N : answerTo 0xFEDCBA987654321005 = some [[0xFB73EA62D951C84000#72]] := by decide
/-- V-ILL-7. -/
theorem test_illegal_op : answerTo 0x333310010000402284 = some [[0x000000000000000001#72]] := by decide

/-! ### Table contents and the heuristic, against 40_table_generator.md -/

/-- V-TBL-16, a line in which saturation and a fresh 15 meet. -/
theorem test_table_rows : rowlEntry 0x0EEF#16 = 0x0E10#16 ∧ rowrEntry 0x0EEF#16 = 0xF1EF#16 := by decide
/-- V-TBL-15. -/
theorem test_table_columns :
    coluEntry 0x3303#16 = 0x0003000300030007#64 ∧ coldEntry 0x3303#16 = 0x0007000000000003#64 := by decide
/-- V-HEUR-20, the least entry. -/
theorem test_heur_least : heur Config.default 0xF1FF#16 = 0xC143E8464295626A#64 := by decide
/-- V-HEUR-22 and V-HEUR-23: the sums of a line and its reverse differ in the last bit. -/
theorem test_heur_sum_order :
    heurSum Config.default 0x0225#16 = 0x4072E22CB45A58A8#64 ∧
      heurSum Config.default 0x5220#16 = 0x4072E22CB45A58A9#64 := by decide
/-- V-HEURS-4, with `MERGE_SKIP_EMPTY = 1`. -/
theorem test_heur_skip_empty :
    heur { Config.default with mergeSkipEmpty := true } 0x1011#16 = 0x4108B19000000000#64 := by decide
/-- R98: `[2,1,1,2]`, `[1,1,2,2]`, `[1,0,1,0]` and `[1,1,1,0]`. -/
theorem test_merges :
    heurMerges Config.default 0x2112#16 = 2 ∧ heurMerges Config.default 0x2211#16 = 4 ∧
      heurMerges Config.default 0x0101#16 = 0 ∧ heurMerges Config.default 0x0111#16 = 3 := by decide
/-- R99: `[1,3,2,4]` gives 65 and 320. -/
theorem test_mono : heurMonoA Config.default 0x4231#16 = 65 ∧ heurMonoB Config.default 0x4231#16 = 320 := by decide
/-- R100: the recorded examples of `score`. -/
theorem test_score : score 0x4022#16 = 56 ∧ score 0xFFFF#16 = 1835008 := by decide
/-- R95: the neighbour one unit above `POW35[15]`, which a library was seen to return, is not the nearest. -/
theorem test_pow35_neighbour : ¬ nearestSqrt 0x40C987A8CE394909#64 (15 ^ 7) := by decide
/-- V-EVAL's mirrored pair of R133: the score of a board and of the board with each row reversed. -/
theorem test_eval_sees_mirror :
    evalBoard (tableEntry Config.default) 0x0104700122002043#64 = 0x41362D7E9E1F5D33#64 ∧
      evalBoard (tableEntry Config.default) (mirror 0x0104700122002043#64) = 0x41362D7E9E1F5D34#64 := by decide
/-- The same pair transposed: reversing the order of the rows changes the score (R133). -/
theorem test_eval_sees_flip :
    evalBoard (tableEntry Config.default) (transpose 0x0104700122002043#64) = 0x41362D7E9E1F5D33#64 ∧
      evalBoard (tableEntry Config.default) (flip (transpose 0x0104700122002043#64)) = 0x41362D7E9E1F5D34#64 := by decide
/-- R106: the least pattern whose score differs from its reverse's. -/
theorem test_heur_sees_reversal :
    heur Config.default (rev 0x0259#16) ≠ heur Config.default 0x0259#16 := by decide
/-- R131: `x + (-x)` is `+0.0`. -/
theorem test_cancelling_sum : fadd 0x41088BC000000000#64 0xC1088BC000000000#64 = 0 := by decide
/-- R118: the checkerboard of ranks 1 and 2. -/
theorem test_terminal : terminal (tableEntry Config.default) 0x1212212112122121#64 = true := by decide

/-! ### BUILD, reset and the ports -/

/-- R182: the turn after the last visit sets `ready`. -/
theorem test_build_ends :
    (stateOf (step { State.reset with mem := ⟨0, 65536⟩ })).map State.ready = some true := by decide
/-- R182: the last visit itself does not. -/
theorem test_last_visit_is_unready :
    (stateOf (step { State.reset with mem := ⟨0, 65535⟩ })).map (fun s => (s.ready, s.mem.visited)) =
      some (false, 65536) := by decide
/-- R191: reset drops the waiting response and keeps the words on offer. -/
theorem test_reset_drops_responses :
    (stateOf (step (twoPortsWith [.assertReset]))).map (fun s => (s.ready, s.ports.map Port.rspq, s.ports.map (·.offered.length))) =
      some (false, [[], []], [1, 1]) := by decide
/-- R185: an unready block answers nothing. -/
theorem test_unready_holds :
    (stateOf (step { twoPortsWith [.serve 1] with ready := false })).map (fun s => s.ports.map (·.offered.length)) =
      some [1, 1] := by decide
/-- P5, the error on port 1 is not seen on port 0. -/
theorem test_port_one_error :
    answersOf (step (twoPortsWith [.serve 1])) = some [[0x000000000000000001#72], [0x000000000000000001#72]] := by decide

/-! ### The command-stream notation (30_encoding.md R70, R71) -/

theorem test_parse_hex :
    parseLine "  Move.LEFT 0x3333_1001_0000_4022 ; board A".toList = some (.command (.moveLeft 0x3333100100004022#64)) := by
  decide
/-- The grid literal of board I, its braces written by their numbers. -/
theorem test_parse_grid :
    parseLine ("xpose ".toList ++ [Char.ofNat 123] ++ "1 1 2 0 / 0 0 0 0 / 0 0 0 0 / 0 0 0 15".toList ++ [Char.ofNat 125]) =
      some (.command (.xpose 0xF000000000000211#64)) := by decide
theorem test_parse_op : parseLine ".op 0xfF 0x0000000000000000".toList = some (.rawOp 0xFF#8 0) := by decide
theorem test_parse_move_number : parseLine "move 1, 0x0000000000000211".toList = some (.moveDir .down 0x211#64) := by decide
theorem test_parse_refuses_short_board : parseLine "eval 0x211".toList = none := by decide
theorem test_assemble_ports :
    assemble [.command (.eval 0), .port 1, .rawOp 0xFF#8 0, .nop] =
      [(0, 0x04#72), (1, 0xFF#72), (1, 0x05#72)] := by decide

/-! ### Witnesses: each statement's hypotheses met by a concrete state and operands -/

theorem twoPorts_built : twoPorts.built := by unfold State.built; decide

theorem twoPorts_inv : twoPorts.Inv where
  cfg_wf := by decide
  ports_count := rfl
  cur_exists := by decide
  mem_wf := by decide
  ready_built := fun _ => by decide
  reset_unready := fun hr => by cases hr
  reset_unbuilt := fun hr => by cases hr
  unready_empty := fun hr => by cases hr
  queues_bounded := by
    intro q hq m hm
    cases hm
    revert q
    decide
  queues_legal := by
    intro q hq w hw
    simp only [twoPorts, List.mem_cons, List.not_mem_nil, or_false] at hq
    obtain rfl | rfl := hq
    · rw [List.mem_singleton.1 hw]
      decide
    · cases hw
  turns_wf := fun t ht => by cases ht

theorem twoPortsWith_inv (ts : List Turn) (h : ∀ t ∈ ts, t.wf 2 = true) : (twoPortsWith ts).Inv :=
  { twoPorts_inv with turns_wf := h }

/-- `twoPorts` once reset is asserted, with its release to come. -/
theorem underReset_inv : ({ resetOn twoPorts with turns := [.releaseReset] } : State).Inv where
  cfg_wf := by decide
  ports_count := rfl
  cur_exists := by decide
  mem_wf := by decide
  ready_built := fun hr => by cases hr
  reset_unready := fun _ => rfl
  reset_unbuilt := fun _ => rfl
  unready_empty := fun _ => by decide
  queues_bounded := by
    intro q hq m hm
    cases hm
    revert q
    decide
  queues_legal := by
    intro q hq w hw
    rw [(by decide : ∀ q ∈ (resetOn twoPorts).ports, q.rspq = []) q hq] at hw
    cases hw
  turns_wf := by unfold State.turnsWf; decide

theorem witness_DecodingInvertsEncoding : (Instr.eval 0xFEDCBA9876543210#64).wf = true := by decide
theorem witness_DecodingReadsOnlyTheOpcode :
    cmdOp 0x04#72 = cmdOp 0x333310010000402204#72 ∧ decodeWord 0x04#72 = .legal (.eval 0) ∧
      cmdOp 0x06#72 = cmdOp 0xFF06#72 ∧ decodeWord 0x06#72 = .illegal 0x06#8 := by decide
theorem witness_SerialisationPreservesTheWord : ([] : List Byte).length ≠ 9 ∧ (8 : Nat) < 9 := by decide
theorem witness_StatusSaysOnlyLegality :
    (∃ t, execWord 0x05#72 twoPorts = .next t) ∧ ∃ t, execWord 0x06#72 twoPorts = .next t := ⟨⟨_, rfl⟩, ⟨_, rfl⟩⟩
theorem witness_IllegalOpcodesAreAnswered : 6 ≤ (0x06#8).toNat ∧ 6 ≤ (0xFF#8).toNat ∧ twoPorts.cur < twoPorts.ports.length := by
  decide
theorem witness_ResponseDependsOnTheWordAlone : twoPorts.built ∧ twoPorts.cur < twoPorts.ports.length :=
  ⟨twoPorts_built, by decide⟩
theorem witness_SpreadMovesNibblesApart : (0 : Nat) < 4 ∧ (3 : Nat) < 4 := by decide
theorem witness_MergesCountsTilesInRuns :
    Config.default.mergeSkipEmpty = false ∧ { Config.default with mergeSkipEmpty := true }.mergeSkipEmpty = true :=
  ⟨rfl, rfl⟩
theorem witness_MonotonicityIsBounded : Config.default.pMono = 4 := rfl
theorem witness_ColumnMovesXorColumnDeltas : twoPorts.built ∧ twoPorts.cur < twoPorts.ports.length :=
  ⟨twoPorts_built, by decide⟩
theorem witness_RowMovesXorRowDeltas : twoPorts.built ∧ twoPorts.cur < twoPorts.ports.length :=
  ⟨twoPorts_built, by decide⟩
theorem witness_MovesSlideEveryLine : twoPorts.built ∧ twoPorts.cur < twoPorts.ports.length ∧ 3 < 4 :=
  ⟨twoPorts_built, by decide, by decide⟩
theorem witness_MovesAreConjugate : twoPorts.built := twoPorts_built
theorem witness_NoOpMovesHaveSlidLines :
    moveDir (tableEntry Config.default) .right 0xFEDCBA9876543210#64 = 0xFEDCBA9876543210#64 := by decide
theorem witness_MovesCompactButMayMergeAgain :
    (0 : Nat) < 4 ∧ 3 < 4 ∧
      moveDir (tableEntry Config.default) .left (moveDir (tableEntry Config.default) .left 0x0000000000000211#64) ≠
        moveDir (tableEntry Config.default) .left 0x0000000000000211#64 := by decide
theorem witness_MovesKeepEmptyCellsAndTileSums : ∀ k < 4, ¬ lineSaturates (lineOf .left 0x0000000000004022#64 k) := by
  have hf : ∀ k < 4, ∀ i : Nat, (tiles (lineOf .left 0x0000000000004022#64 k))[i]? ≠ some 15#4 := by
    intro k hk i hi
    have hm := List.mem_of_getElem? hi
    revert hm
    interval_cases k <;> decide
  exact fun k hk ⟨i, hi, _⟩ => hf k hk i hi
/-- The clause of the saturating lines, at the last column. -/
theorem witness_MovesKeepEmptyCellsAndTileSums_saturating :
    ∃ k, k < 4 ∧ lineSaturates (lineOf .up 0xF000F00000000000#64 k) := ⟨3, by decide, 0, by decide, by decide⟩
theorem witness_EvalSumsRowsThenColumns : twoPorts.built ∧ twoPorts.cur < twoPorts.ports.length :=
  ⟨twoPorts_built, by decide⟩
theorem witness_SumIsRoundedToNearest :
    f64IsFinite 0x7FEFFFFFFFFFFFFF#64 = true ∧ f64IsFinite 0x0000000000000001#64 = true ∧
      f64IsFinite (fadd 0x4026A09E667F3BCD#64 0x3FF0000000000000#64) = true ∧
      f64IsFinite (fsub 0x4026A09E667F3BCD#64 0x3FF0000000000000#64) = true := by decide
theorem witness_ProductIsRoundedToNearest :
    f64IsFinite 0x4026A09E667F3BCD#64 = true ∧ f64IsFinite (fmul 0x4026A09E667F3BCD#64 0x4026000000000000#64) = true := by
  decide
theorem witness_SmallIntegersAreExact : (0 : Nat) < 2 ^ 53 ∧ 2 ^ 53 - 1 < 2 ^ 53 := by decide
theorem witness_XposeExchangesRowsAndColumns : twoPorts.cur < twoPorts.ports.length := by decide
theorem witness_CommandsOnlyAppendOneResponse : ∃ t, exec (.eval 0x4022#64) twoPorts = .next t := ⟨_, rfl⟩
theorem witness_ResetDropsWaitingResponses : nextTurn (twoPortsWith [.assertReset]) = .assertReset := rfl
/-- A block under reset that is to be released, its first clause in `twoPorts`, where no reset is asserted. -/
theorem witness_ReleaseOfResetStartsBuild :
    nextTurn (twoPortsWith [.releaseReset]) = .releaseReset ∧
      ∃ s : State, nextTurn s = .releaseReset ∧ s.Inv ∧ s.resetAsserted = true ∧ (dropTurn s).turns = [] ∧
        nextTurn (resetOff (dropTurn s)) = .build :=
  ⟨rfl, { resetOn twoPorts with turns := [.releaseReset] }, rfl, underReset_inv, rfl, rfl, by decide⟩
theorem witness_BuildVisitWritesFiveLocations :
    nextTurn building = .build ∧ building.resetAsserted = false ∧ building.ready = false ∧
      building.mem.visited = (0x4022#16).toNat ∧ writingVisit .rowr 0x2204#16 = 0x4022#16 ∧
      writingVisit .rowr 0x4022#16 ≠ 0x4022#16 := by decide
theorem witness_BuildEndsAndThenReady :
    building.turns = [] ∧ building.resetAsserted = false ∧ building.ready = false ∧ building.mem.wf = true := by decide
theorem witness_ReadyFallsOnlyAtReset :
    (∃ t, step twoPorts = .next t) ∧ twoPorts.ready = true ∧ nextTurn twoPorts ≠ .assertReset ∧
      ∃ t, step { State.reset with mem := ⟨0, 65536⟩ } = .next t ∧ t.ready = true :=
  ⟨⟨_, rfl⟩, rfl, by decide, ⟨_, rfl, by decide⟩⟩
theorem witness_TablesChangeOnlyByBuild :
    twoPorts.Inv ∧ twoPorts.ready = true ∧ nextTurn twoPorts ≠ .assertReset ∧ nextTurn twoPorts ≠ .build ∧
      ∃ t, step twoPorts = .next t :=
  ⟨twoPorts_inv, rfl, by decide, by decide, ⟨_, rfl⟩⟩
theorem witness_ParametersNeverChange : ∃ t, step (twoPortsWith [.assertReset]) = .next t := ⟨_, rfl⟩
/-- The first clause: the block is not ready. -/
theorem witness_PortsHoldCommandsTheyCannotAccept_unready :
    ∃ q, nextTurn { twoPortsWith [.serve 0] with ready := false } = .serve 0 ∧
      { twoPortsWith [.serve 0] with ready := false }.ports[0]? = some q ∧
      { twoPortsWith [.serve 0] with ready := false }.ready = false := ⟨_, rfl, rfl, rfl⟩
/-- The second clause: the block is ready and the port's queue holds exactly `MAX_OUTSTANDING` responses. -/
theorem witness_PortsHoldCommandsTheyCannotAccept_full :
    ∃ s : State, ∃ q m, s.ready = true ∧ nextTurn s = .serve 0 ∧ s.ports[0]? = some q ∧
      s.cfg.maxOutstanding = some m ∧ m ≤ q.rspq.length :=
  ⟨{ twoPortsWith [.serve 0] with cfg := { Config.default with nports := 2, maxOutstanding := some 1 } }, _, _,
    rfl, rfl, rfl, rfl, by decide⟩
theorem witness_AcceptedCommandsAreAnsweredInOrder :
    nextTurn (twoPortsWith [.serve 0]) = .serve 0 ∧ (twoPortsWith [.serve 0]).ready = true ∧
      (twoPortsWith [.serve 0]).built ∧
      (∃ q w ws, (twoPortsWith [.serve 0]).ports[0]? = some q ∧ q.offered = w :: ws ∧
        ∀ m, (twoPortsWith [.serve 0]).cfg.maxOutstanding = some m → q.rspq.length < m) :=
  ⟨rfl, rfl, twoPorts_built, _, _, _, rfl, rfl, fun m hm => by cases hm; decide⟩
theorem witness_HostTakesTheOldestResponse :
    nextTurn (twoPortsWith [.take 0]) = .take 0 ∧ (twoPortsWith [.take 0]).ports[0]?.map Port.rspq = some [0x01#72] ∧
      (twoPortsWith [.take 1]).ports[1]?.map Port.rspq = some [] := by decide
theorem witness_StepRunsTheDecodedCommand :
    nextTurn (twoPortsWith [.serve 0]) = .serve 0 ∧
      (∃ q w ws, (twoPortsWith [.serve 0]).ports[0]? = some q ∧ q.offered = w :: ws ∧
        mayAccept (twoPortsWith [.serve 0]) q = true ∧ decodeWord w = .legal (.moveLeft 0x3333100100004022#64)) :=
  ⟨rfl, _, _, _, rfl, rfl, by decide, by decide⟩
theorem witness_PlacedWordRunsNext :
    State.reset.cfg.wf = true ∧ State.reset.cur < State.reset.ports.length ∧
      decodeTableWord 72 0x02 = some (.moveLeft 0) := by decide
theorem witness_StepKeepsTheInvariant : twoPorts.Inv ∧ ∃ t, step twoPorts = .next t := ⟨twoPorts_inv, ⟨_, rfl⟩⟩
theorem witness_MachineNeverStops : (twoPortsWith [.serve 1, .take 0, .assertReset]).Inv :=
  twoPortsWith_inv _ (by decide)
theorem witness_AnswersAreNeverLostOrReordered :
    (twoPortsWith [.take 0]).Inv ∧ nextTurn (twoPortsWith [.take 0]) ≠ .assertReset ∧
      (∃ t, step (twoPortsWith [.take 0]) = .next t) ∧ ∃ q, (twoPortsWith [.take 0]).ports[0]? = some q :=
  ⟨twoPortsWith_inv _ (by decide), by decide, ⟨_, rfl⟩, ⟨_, rfl⟩⟩
/-- Port 1 of `twoPorts`: its illegal command is answered and the response taken. -/
theorem witness_RunAnswersTheCommandList :
    (twoPortsWith [.serve 1, .take 1]).Inv ∧
      (∀ x ∈ (twoPortsWith [.serve 1, .take 1]).turns, x ≠ .assertReset ∧ offersOn 1 x = []) ∧
      ∃ (t : State) (q q' : Port),
        Host.Core.run Sys2Proof.core 2 (twoPortsWith [.serve 1, .take 1]) = .next t ∧
        (twoPortsWith [.serve 1, .take 1]).ports[1]? = some q ∧ q.rspq = [] ∧ q.taken = [] ∧
        t.ports[1]? = some q' ∧ q'.offered = [] ∧ q'.rspq = [] :=
  ⟨twoPortsWith_inv _ (by decide), by decide, _, _, _, rfl, rfl, rfl, rfl, rfl, rfl, rfl⟩
/-- Two blocks that differ in what port 1 offers. -/
theorem witness_OtherPortsTrafficIsInvisible :
    State.SameFor 0 twoPorts (modPort 1 (Port.offer 0x05#72) twoPorts) ∧ (∃ s, step twoPorts = .next s) ∧
      ∃ t, step (modPort 1 (Port.offer 0x05#72) twoPorts) = .next t :=
  ⟨⟨rfl, rfl, rfl, rfl, rfl, rfl, rfl, rfl⟩, ⟨_, rfl⟩, ⟨_, rfl⟩⟩
theorem witness_OfferedCommandsAreAcceptedInARound :
    twoPorts.Inv ∧ twoPorts.turns = [] ∧ twoPorts.ready = true ∧
      ∃ q w ws, twoPorts.ports[1]? = some q ∧ q.offered = w :: ws ∧
        ∀ m, twoPorts.cfg.maxOutstanding = some m → q.rspq.length < m :=
  ⟨twoPorts_inv, rfl, rfl, _, _, _, rfl, rfl, fun m hm => by cases hm; decide⟩

end Sys2Proof.Machine
end

section
/-! SUPPORT. Which turns keep the parameters and the table memory, and the statement of 20_memory.md R49. -/

namespace Sys2Proof.Machine

/-- Every table read is a function of the parameters and the table memory alone. -/
theorem memRead_congr {s t : State} (hcfg : t.cfg = s.cfg) (hmem : t.mem = s.mem) : memRead t = memRead s := by
  rw [memRead, memRead, hcfg, hmem]

/-- BUILD's turn does nothing once the block is ready (70_reset_and_hazards.md R182). -/
theorem buildTurn_of_ready {s : State} (h : s.ready = true) : buildTurn s = s := by simp [buildTurn, h]

/-- A port's turn, whether or not it accepts a command, keeps the parameters and the table memory. -/
theorem serve_keeps_cfg_mem {p : Nat} {s t : State} (h : serve p s = .next t) : t.cfg = s.cfg ∧ t.mem = s.mem := by
  obtain ⟨q, -, ⟨rfl, -⟩ | ⟨w, ws, -, -, rfl⟩⟩ := serve_next h
  · simp
  · simp

/-- No turn changes the parameters (10_state.md R30, R35). -/
theorem step_keeps_cfg {s t : State} (h : step s = .next t) : t.cfg = s.cfg := by
  obtain ⟨p, w, -, -, rfl⟩ | ⟨p, -, -, rfl⟩ | ⟨-, rfl⟩ | ⟨-, rfl⟩ | ⟨-, rfl⟩ | ⟨p, -, hserve⟩ := step_next h
  · simp
  · simp
  · simp
  · simp
  · simp
  · simpa using (serve_keeps_cfg_mem hserve).1

/-- The table memory is kept by every turn but a reset and BUILD's in an unready state (20_memory.md R49). -/
theorem step_keeps_mem {s t : State} (h : step s = .next t) (hreset : nextTurn s ≠ .assertReset)
    (hbuild : nextTurn s ≠ .build ∨ s.ready = true) : t.mem = s.mem := by
  obtain ⟨p, w, -, -, rfl⟩ | ⟨p, -, -, rfl⟩ | ⟨hn, -⟩ | ⟨-, rfl⟩ | ⟨hn, rfl⟩ | ⟨p, -, hserve⟩ := step_next h
  · simp
  · simp
  · exact absurd hn hreset
  · simp
  · have hready : (dropTurn s).ready = true := hbuild.resolve_left (absurd hn)
    rw [buildTurn_of_ready hready, dropTurn_mem]
  · simpa using (serve_keeps_cfg_mem hserve).2

/-- So every table reads as before after such a turn. -/
theorem step_keeps_memRead {s t : State} (h : step s = .next t) (hreset : nextTurn s ≠ .assertReset)
    (hbuild : nextTurn s ≠ .build ∨ s.ready = true) : memRead t = memRead s :=
  memRead_congr (step_keeps_cfg h) (step_keeps_mem h hreset hbuild)

/-- Settles O43: only an unready BUILD turn or a reset writes a table, and a ready block that meets the invariant has
its tables built. -/
theorem tablesChangeOnlyByBuild : Obligations.TablesChangeOnlyByBuild := by
  unfold Obligations.TablesChangeOnlyByBuild
  intro s t h hreset
  refine ⟨fun hbuild tb p => by rw [step_keeps_memRead h hreset hbuild], fun hinv hready tb p => ?_⟩
  have hbuilt : memRead s = tableEntry s.cfg := memRead_of_built (hinv.ready_built hready)
  rw [step_keeps_memRead h hreset (.inr hready), hbuilt]
  exact ⟨rfl, rfl⟩

end Sys2Proof.Machine
end

section
/-! SUPPORT. The serialised form of a word (30_encoding.md R72): the bytes of a word carry the word, and the statement
of R72. -/

namespace Sys2Proof

theorem bytesToNat_append_byte (bs : List Byte) (b : Byte) :
    bytesToNat (bs ++ [b]) = bytesToNat bs + 256 ^ bs.length * b.toNat := by
  induction bs with
  | nil => simp [bytesToNat]
  | cons a bs ih =>
    simp only [List.cons_append, bytesToNat, ih, List.length_cons, Nat.pow_succ]
    ring

/-- The first `n` bytes of a word carry its low `8n` bits. -/
theorem bytesToNat_lowBytes (w : BitVec 72) (n : Nat) :
    bytesToNat ((List.range n).map fun j => w.extractLsb' (8 * j) 8) = w.toNat % 256 ^ n := by
  induction n with
  | zero => simp [bytesToNat, Nat.mod_one]
  | succ n ih =>
    have hbyte : (w.extractLsb' (8 * n) 8).toNat = w.toNat / 256 ^ n % 256 := by
      rw [BitVec.extractLsb'_toNat, Nat.shiftRight_eq_div_pow, Nat.pow_mul]
    rw [List.range_succ, List.map_append, List.map_singleton, bytesToNat_append_byte, ih, hbyte, List.length_map,
      List.length_range, Nat.mod_pow_succ]

@[simp] theorem length_wordToBytes (w : BitVec 72) : (wordToBytes w).length = 9 := by simp [wordToBytes]

theorem getElem?_wordToBytes (w : BitVec 72) {j : Nat} (h : j < 9) :
    (wordToBytes w)[j]? = some (w.extractLsb' (8 * j) 8) := by
  simp [wordToBytes, h]

@[simp] theorem bytesToNat_wordToBytes (w : BitVec 72) : bytesToNat (wordToBytes w) = w.toNat := by
  rw [wordToBytes, bytesToNat_lowBytes]
  exact Nat.mod_eq_of_lt w.isLt

@[simp] theorem bytesToWord_wordToBytes (w : BitVec 72) : bytesToWord (wordToBytes w) = .ok w := by
  simp [bytesToWord]

/-- A byte string of another length is rejected by its length (30_encoding.md R60). -/
theorem decodeBytes_of_length_ne {bs : List Byte} (h : bs.length ≠ 9) :
    decodeBytes bs = .error (.wrongLength bs.length) := by
  rw [decodeBytes, bytesToWord, if_neg h]

/-- Settles O3: the nine bytes are digits to base 256, whose value is the word. -/
theorem serialisationPreservesTheWord : Obligations.SerialisationPreservesTheWord := by
  unfold Obligations.SerialisationPreservesTheWord
  exact ⟨fun w => ⟨bytesToWord_wordToBytes w, length_wordToBytes w, fun j hj => getElem?_wordToBytes w hj⟩,
    fun bs hbs => decodeBytes_of_length_ne hbs⟩

end Sys2Proof
end

section
/-! SUPPORT. Which opcodes are legal, what the execution of a word answers, and the statements of 30_encoding.md R64,
R65 and R71. -/

namespace Sys2Proof

/-- The legal opcodes are 0x00 to 0x05 (30_encoding.md R62). -/
theorem decodeOp_of_le {op : Opcode} (h : op.toNat ≤ 5) (b : Board) : ∃ i, decodeOp op b = .legal i := by
  have hop : op = 0x00#8 ∨ op = 0x01#8 ∨ op = 0x02#8 ∨ op = 0x03#8 ∨ op = 0x04#8 ∨ op = 0x05#8 := by bv_omega
  obtain rfl | rfl | rfl | rfl | rfl | rfl := hop
  · exact ⟨.moveUp b, rfl⟩
  · exact ⟨.moveDown b, rfl⟩
  · exact ⟨.moveLeft b, rfl⟩
  · exact ⟨.moveRight b, rfl⟩
  · exact ⟨.eval b, rfl⟩
  · exact ⟨.xpose b, rfl⟩

/-- The opcodes 0x06 to 0xFF are illegal (30_encoding.md R65). -/
theorem decodeOp_of_ge {op : Opcode} (h : 6 ≤ op.toNat) (b : Board) : decodeOp op b = .illegal op := by
  have hne : ∀ k : Opcode, k.toNat < 6 → op ≠ k := by
    rintro k hk rfl
    omega
  simp [decodeOp, hne]

@[simp] theorem decodeWord_cmdWord (op : Opcode) (b : Board) : decodeWord (cmdWord op b) = decodeOp op b := by
  simp [decodeWord]

end Sys2Proof

namespace Sys2Proof.Machine

@[simp] theorem transpose_zero : transpose 0 = 0 := by decide

@[simp] theorem rspStatus_answerOf_legal (rd : TableReader) (i : Instr) :
    rspStatus (answerOf rd (.legal i)) = 0x00#8 := by simp [answerOf, statusOk]

@[simp] theorem rspData_answerOf_legal (rd : TableReader) (i : Instr) :
    rspData (answerOf rd (.legal i)) = resultOf rd i := by simp [answerOf]

theorem answerOf_illegal (rd : TableReader) (op : Opcode) : answerOf rd (.illegal op) = rspWord 0x01#8 0 := rfl

/-- All that the execution of a word can do when it goes on: one answer on the current port. -/
theorem execWord_next {w : CmdWord} {s t : State} (h : execWord w s = .next t) :
    s.cur < s.ports.length ∧ t = s.answered (answerOf (memRead s) (decodeWord w)) := by
  rw [execWord_eq] at h
  split at h
  · exact ⟨‹_›, by cases h; rfl⟩
  · cases h

/-- Settles O5: the opcode alone decides which of the two forms the answer has. -/
theorem statusSaysOnlyLegality : Obligations.StatusSaysOnlyLegality := by
  unfold Obligations.StatusSaysOnlyLegality
  intro w s t h
  obtain ⟨-, rfl⟩ := execWord_next h
  refine ⟨_, rfl, ?_⟩
  split
  · rename_i hlegal
    obtain ⟨i, hi⟩ : ∃ i, decodeWord w = .legal i := decodeOp_of_le hlegal _
    rw [hi]
    exact ⟨rspStatus_answerOf_legal _ i, i, rfl, rspData_answerOf_legal _ i⟩
  · rename_i hillegal
    have hi : decodeWord w = .illegal (cmdOp w) := decodeOp_of_ge (by omega) _
    rw [hi, answerOf_illegal]
    exact ⟨rspStatus_rspWord _ _, rspData_rspWord _ _⟩

/-- Settles O6: the opcode decodes as illegal whatever the board, and the one exception is the answer. -/
theorem illegalOpcodesAreAnswered : Obligations.IllegalOpcodesAreAnswered := by
  unfold Obligations.IllegalOpcodesAreAnswered
  intro op b s hop hcur
  rw [execWord_eq, if_pos hcur, decodeWord_cmdWord, decodeOp_of_ge hop, answerOf_illegal]

/-- The command that a direction names has the direction's index as its opcode (30_encoding.md R71). -/
theorem opcode_moveInstr (d : Direction) (b : Board) : (moveInstr d b).opcode = d.index.setWidth 8 := by
  cases d <;> rfl

theorem board_moveInstr (d : Direction) (b : Board) : (moveInstr d b).board = b := by
  cases d <;> rfl

/-- Settles O8: each synonym's word is its command's, and the transpose of the empty board is empty. -/
theorem pseudoInstructionsExpand : Obligations.PseudoInstructionsExpand := by
  unfold Obligations.PseudoInstructionsExpand
  refine ⟨fun d b => ?_, rfl, fun c => ?_⟩
  · rw [lineWord, encode, opcode_moveInstr, board_moveInstr]
  · have hdec : decodeWord (cmdWord 0x05#8 0) = .legal (.xpose 0) := by rw [decodeWord_cmdWord]; rfl
    rw [response, hdec, answerOf, resultOf, transpose_zero, statusOk]

end Sys2Proof.Machine
end

section
/-! SUPPORT. What each turn does to a port's transcript, and the statement of 30_encoding.md R66. -/

namespace Sys2Proof.Machine

@[simp] theorem Port.offer_transcript (c : Config) (q : Port) (w : CmdWord) :
    (q.offer w).transcript c = q.transcript c ++ [response c w] := by
  simp [Port.transcript]

/-- The oldest response waiting becomes the newest response taken. -/
@[simp] theorem Port.takeOldest_transcript (c : Config) (q : Port) : q.takeOldest.transcript c = q.transcript c := by
  cases hq : q.rspq <;> simp [Port.transcript, hq]

/-- The oldest response still to give becomes the newest response waiting. -/
theorem Port.transcript_push_response_acceptWord (c : Config) {q : Port} {w : CmdWord}
    {ws : List CmdWord} (h : q.offered = w :: ws) :
    (q.acceptWord.push (response c w)).transcript c = q.transcript c := by
  simp [Port.transcript, h]

/-- A change of port `p'` shows on port `p` as what it adds to that port's transcript, and elsewhere not at all. -/
theorem transcript_modify {l : List Port} {p p' : Nat} {f : Port → Port} {q : Port} {c : Config}
    {added : List RspWord} (hq : l[p]? = some q) (hsame : p' = p → (f q).transcript c = q.transcript c ++ added)
    (hother : p' ≠ p → added = []) :
    ∃ q', (l.modify p' f)[p]? = some q' ∧ q'.transcript c = q.transcript c ++ added := by
  by_cases hp : p' = p
  · subst hp
    exact ⟨f q, getElem?_modify_self hq, hsame rfl⟩
  · exact ⟨q, by rw [getElem?_modify_ne (Ne.symm hp), hq], by simp [hother hp]⟩

/-- A block that accepts has its tables built, so it answers with the response that the word and the configuration fix
(30_encoding.md R66). -/
theorem answerOf_of_mayAccept {s : State} {q : Port} (hbuilt : s.ready = true → s.built) (h : mayAccept s q = true)
    (w : CmdWord) : answerOf (memRead s) (decodeWord w) = response s.cfg w := by
  have hready : s.ready = true := (Bool.and_eq_true_iff.1 h).1
  rw [memRead_of_built (hbuilt hready), response]

/-- A port's turn keeps every port's transcript. -/
theorem serve_keeps_transcript {s t : State} {p p' : Nat} {q : Port} (hbuilt : s.ready = true → s.built)
    (h : serve p' s = .next t) (hq : s.ports[p]? = some q) :
    ∃ q', t.ports[p]? = some q' ∧ q'.transcript s.cfg = q.transcript s.cfg := by
  obtain ⟨r, hr, ⟨rfl, -⟩ | ⟨w, ws, hoffered, hmay, rfl⟩⟩ := serve_next h
  · exact ⟨q, hq, rfl⟩
  · rw [answerOf_of_mayAccept hbuilt hmay]
    simp only [State.answered_ports, accept_ports, accept_cur, atPort_ports, atPort_cur, List.modify_modify_eq]
    have hsame : p' = p → (q.acceptWord.push (response s.cfg w)).transcript s.cfg = q.transcript s.cfg := by
      rintro rfl
      obtain rfl : r = q := Option.some.inj (hr.symm.trans hq)
      exact Port.transcript_push_response_acceptWord s.cfg hoffered
    simpa using transcript_modify (added := []) hq (fun hp => by simpa using hsame hp) fun _ => rfl

/-- Settles O53: an offer puts one response to come at the end, a take and an answer move the boundary between two parts
of the transcript, and no other turn but a reset touches a port. -/
theorem answersAreNeverLostOrReordered : Obligations.AnswersAreNeverLostOrReordered := by
  unfold Obligations.AnswersAreNeverLostOrReordered
  intro s t p q hinv hreset h hq
  rw [step_keeps_cfg h]
  obtain ⟨p', w, hn, -, rfl⟩ | ⟨p', hn, -, rfl⟩ | ⟨hn, -⟩ | ⟨hn, rfl⟩ | ⟨hn, rfl⟩ | ⟨p', hn, hserve⟩ := step_next h
  · rw [hn]
    exact transcript_modify hq (fun hp => by simp [offersOn, hp]) fun hp => by simp [offersOn, hp]
  · rw [hn]
    exact transcript_modify hq (fun _ => by simp [offersOn]) fun _ => rfl
  · exact absurd hn hreset
  · rw [hn]
    exact ⟨q, by simpa using hq, by simp [offersOn]⟩
  · rw [hn]
    exact ⟨q, by simpa using hq, by simp [offersOn]⟩
  · rw [hn]
    simpa [offersOn] using serve_keeps_transcript (s := dropTurn s) hinv.ready_built hserve hq

end Sys2Proof.Machine
end

section
/-! SUPPORT. The reversal of a pattern nibble by nibble, and the statement of 40_table_generator.md R87. -/

namespace Sys2Proof.Machine

@[simp] theorem nib_rev (p : Pattern) (k : Nat) (hk : k < 4) : nib (rev p) k = nib p (3 - k) := by
  interval_cases k <;> simp [rev]

@[simp] theorem rev_rev (p : Pattern) : rev (rev p) = p :=
  pattern_ext fun k hk => by rw [nib_rev _ _ hk, nib_rev _ _ (by omega), show 3 - (3 - k) = k by omega]

/-- `rev` exchanges the outer two nibbles and the inner two, so it fixes a pattern when the two of each pair agree. -/
theorem rev_eq_self_iff (p : Pattern) : rev p = p ↔ nib p 0 = nib p 3 ∧ nib p 1 = nib p 2 := by
  constructor
  · intro h
    have hsame (k : Nat) (hk : k < 4) : nib p k = nib p (3 - k) := by rw [← nib_rev p k hk, h]
    exact ⟨hsame 0 (by decide), hsame 1 (by decide)⟩
  · rintro ⟨houter, hinner⟩
    apply pattern_ext
    intro k hk
    rw [nib_rev p k hk]
    interval_cases k
    · exact houter.symm
    · exact hinner.symm
    · exact hinner
    · exact houter

/-- `rev` moves a bit from nibble to nibble and keeps its place in the nibble (90_conflicts.md C4). -/
theorem rev_bit (p : Pattern) (k : Nat) (hk : k < 16) :
    (rev p).getLsbD k = p.getLsbD (4 * (3 - k / 4) + k % 4) := by
  have hbit := nib_bit (rev p) (k / 4) (k % 4)
  rw [nib_rev p (k / 4) (by omega), nib_bit, show 4 * (k / 4) + k % 4 = k by omega] at hbit
  simpa [show k % 4 < 4 by omega] using hbit.symm

/-- Each of the four shifts of R88 carries one nibble to its place, and its mask keeps that nibble alone. -/
theorem rev_eq_revByShifts (p : Pattern) : rev p = revByShifts p := by
  apply BitVec.eq_of_getLsbD_eq
  intro k hk
  rw [rev_bit p k hk]
  interval_cases k <;> simp [revByShifts]

/-- Settles O9: nibble `k` of the reverse is nibble `3 - k`. -/
theorem reversalIsAnInvolution : Obligations.ReversalIsAnInvolution := by
  unfold Obligations.ReversalIsAnInvolution
  exact fun p => ⟨rev_rev p, rev_eq_self_iff p, rev_eq_revByShifts p⟩

end Sys2Proof.Machine
end

section
/-! SUPPORT. Where `spread` puts the nibbles of a pattern, that it is linear and injective, and the statements of
40_table_generator.md R89 and R90. -/

namespace Sys2Proof.Machine

/-- Nibble `k` lands at bit `16k`, the cell `(k, 0)` (40_table_generator.md R89, decision D28). -/
theorem nib_spread (p : Pattern) {k : Nat} (hk : k < 4) : nib (spread p) (4 * k) = nib p k := by
  simpa [cell] using cell_spread p k 0 hk (by decide)

/-- The bits under the mask of R89 are those that lie past the fourth in their group of sixteen. -/
theorem spreadMask_bit : ∀ k < 64, (0xFFF0FFF0FFF0FFF0#64).getLsbD k = decide (4 ≤ k % 16) := by decide

theorem spread_and_mask (p : Pattern) : spread p &&& 0xFFF0FFF0FFF0FFF0#64 = 0 := by
  apply BitVec.eq_of_getLsbD_eq
  intro k hk
  rw [BitVec.getLsbD_and, spread_bit p k hk, spreadMask_bit k hk]
  by_cases h : k % 16 < 4
  · simp [h]
  · simp [h]

/-- Shifted left by `4c` the spread pattern lies down column `c` (40_table_generator.md R89). -/
theorem column_spread_shiftLeft (p : Pattern) {c : Nat} (hc : c < 4) : column (spread p <<< (4 * c)) c = p := by
  apply pattern_ext
  intro k hk
  rw [nib_column _ _ _ hk]
  exact (cell_atColumn_spread c k c p hc hk hc).trans (if_pos rfl)

theorem spread_xor (p q : Pattern) : spread (p ^^^ q) = spread p ^^^ spread q := by
  apply board_ext_cell
  intro r hr c hc
  rw [cell_xor, cell_spread _ _ _ hr hc, cell_spread _ _ _ hr hc, cell_spread _ _ _ hr hc, nib_xor]
  split
  · rfl
  · simp

theorem spread_injective : Function.Injective spread := by
  intro p q h
  apply pattern_ext
  intro k hk
  rw [← nib_spread p hk, ← nib_spread q hk, h]

/-- Settles O10: each clause is a law of `spread` above. -/
theorem spreadMovesNibblesApart : Obligations.SpreadMovesNibblesApart := by
  unfold Obligations.SpreadMovesNibblesApart
  exact fun p q => ⟨fun _ hk => nib_spread p hk, spread_and_mask p, fun _ hc => column_spread_shiftLeft p hc,
    spread_xor p q⟩

end Sys2Proof.Machine
end

section
/-! SUPPORT. The entries of the four move tables as deltas, and the statement of 40_table_generator.md R81 and R82. -/

namespace Sys2Proof.Machine

/-- A column table holds the spread of the row table's entry (40_table_generator.md R104). -/
theorem coluEntry_eq_spread (p : Pattern) : coluEntry p = spread (rowlEntry p) := (spread_xor p (slideL p)).symm

/-- The same for the slide the other way (40_table_generator.md R105). -/
theorem coldEntry_eq_spread (p : Pattern) : coldEntry p = spread (rowrEntry p) := (spread_xor p (slideR p)).symm

/-- XORing a delta onto the old value gives the new one (40_table_generator.md R82). -/
theorem xor_delta {w : Nat} (a b : BitVec w) : a ^^^ (a ^^^ b) = b := by
  rw [← BitVec.xor_assoc, BitVec.xor_self, BitVec.zero_xor]

theorem xor_rowlEntry (p : Pattern) : p ^^^ rowlEntry p = slideL p := xor_delta p _

theorem xor_rowrEntry (p : Pattern) : p ^^^ rowrEntry p = slideR p := xor_delta p _

/-- A delta is zero when the two values agree (40_table_generator.md R82). -/
theorem delta_eq_zero_iff {w : Nat} (a b : BitVec w) : a ^^^ b = 0 ↔ b = a := by
  rw [BitVec.ofNat_eq_ofNat, BitVec.xor_eq_zero_iff, eq_comm]

theorem rowlEntry_eq_zero_iff (p : Pattern) : rowlEntry p = 0 ↔ slideL p = p := delta_eq_zero_iff p _

theorem rowrEntry_eq_zero_iff (p : Pattern) : rowrEntry p = 0 ↔ slideR p = p := delta_eq_zero_iff p _

theorem coluEntry_eq_zero_iff (p : Pattern) : coluEntry p = 0 ↔ slideL p = p :=
  (delta_eq_zero_iff _ _).trans spread_injective.eq_iff

theorem coldEntry_eq_zero_iff (p : Pattern) : coldEntry p = 0 ↔ slideR p = p :=
  (delta_eq_zero_iff _ _).trans spread_injective.eq_iff

/-- Settles O11: the five closed forms are the tables' definitions, and the rest are the laws of deltas above. -/
theorem tableEntriesAreDeltas : Obligations.TableEntriesAreDeltas := by
  unfold Obligations.TableEntriesAreDeltas
  exact fun c p => ⟨rfl, rfl, rfl, rfl, rfl, coluEntry_eq_spread p, coldEntry_eq_spread p, xor_rowlEntry p,
    xor_rowrEntry p, rowlEntry_eq_zero_iff p, rowrEntry_eq_zero_iff p, coluEntry_eq_zero_iff p,
    coldEntry_eq_zero_iff p⟩

end Sys2Proof.Machine
end

section
/-! SUPPORT. The turns of the in-place loop of 40_table_generator.md R93, each as a change of the cells from the slot
on, and the statement that the loop computes the slide of R91. -/

namespace Sys2Proof.Machine

/-- Cells that begin with `z` empty ones, then `t`, then `rest`. -/
def gapThen (z : Nat) (t : Rank) (rest : List Rank) : List Rank := List.replicate z 0 ++ t :: rest

@[simp] theorem length_gapThen (z : Nat) (t : Rank) (rest : List Rank) :
    (gapThen z t rest).length = z + 1 + rest.length := by
  simp [gapThen]
  omega

/-- Either all the cells are empty or there is a first tile. -/
theorem eq_zeros_or_gapThen (l : List Rank) :
    l = List.replicate l.length 0 ∨ ∃ z t rest, t ≠ 0 ∧ l = gapThen z t rest := by
  induction l with
  | nil => exact .inl rfl
  | cons x xs ih =>
    by_cases hx : x = 0
    · subst hx
      obtain hzeros | ⟨z, t, rest, ht, rfl⟩ := ih
      · exact .inl (by rw [List.length_cons, List.replicate_succ, ← hzeros])
      · exact .inr ⟨z + 1, t, rest, ht, rfl⟩
    · exact .inr ⟨0, x, xs, hx, rfl⟩

theorem getD_zeros (n k : Nat) : (List.replicate n (0 : Rank)).getD k 0 = 0 := by
  rw [List.getD_eq_getElem?_getD, List.getElem?_getD_replicate_default_eq]

theorem filter_zeros (n : Nat) : (List.replicate n (0 : Rank)).filter (· ≠ 0) = [] := by simp

theorem filter_cons_tile {t : Rank} (ht : t ≠ 0) (rest : List Rank) :
    (t :: rest).filter (· ≠ 0) = t :: rest.filter (· ≠ 0) :=
  List.filter_cons_of_pos (by simpa using ht)

theorem filter_gapThen_tile (z : Nat) {t : Rank} (ht : t ≠ 0) (rest : List Rank) :
    (gapThen z t rest).filter (· ≠ 0) = t :: rest.filter (· ≠ 0) := by
  rw [gapThen, List.filter_append, filter_zeros, List.nil_append, filter_cons_tile ht]

theorem filter_gapThen_zero (z : Nat) (rest : List Rank) :
    (gapThen z 0 rest).filter (· ≠ 0) = rest.filter (· ≠ 0) := by
  simp [gapThen]

theorem getD_gapThen_lt {z k : Nat} (hk : k < z) (t : Rank) (rest : List Rank) : (gapThen z t rest).getD k 0 = 0 := by
  simp [gapThen, List.getElem?_append, hk]

theorem getD_gapThen_self (z : Nat) (t : Rank) (rest : List Rank) : (gapThen z t rest).getD z 0 = t := by
  simp [gapThen]

/-! ### The line around the slot -/

theorem getD_slot (pre : List Rank) (here : Rank) (rest : List Rank) :
    (pre ++ here :: rest).getD pre.length 0 = here := by
  simp

theorem getD_afterSlot (pre : List Rank) (here : Rank) (rest : List Rank) (k : Nat) :
    (pre ++ here :: rest).getD (pre.length + 1 + k) 0 = rest.getD k 0 := by
  rw [List.getD_append_right _ _ _ _ (by omega), show pre.length + 1 + k - pre.length = k + 1 by omega,
    List.getD_cons_succ]

theorem set_slot_set_tile (pre : List Rank) (here v : Rank) (z : Nat) (t : Rank) (rest : List Rank) :
    ((pre ++ here :: gapThen z t rest).set pre.length v).set (pre.length + 1 + z) 0 = pre ++ v :: gapThen z 0 rest := by
  rw [List.set_append_right _ _ (by omega), List.set_append_right _ _ (by omega), Nat.sub_self,
    show pre.length + 1 + z - pre.length = z + 1 by omega]
  simp [gapThen]

/-- Empty cells at the end of a line do not show in its pattern (40_table_generator.md R91, last lines). -/
theorem packLine_append_zeros (l : List Rank) (n : Nat) : packLine (l ++ List.replicate n 0) = packLine l := by
  have hget (k : Nat) : (l ++ List.replicate n 0).getD k 0 = l.getD k 0 := by
    by_cases hk : k < l.length
    · rw [List.getD_append _ _ _ _ hk]
    · rw [List.getD_append_right _ _ _ _ (by omega), getD_zeros, List.getD_eq_default _ _ (by omega)]
  simp only [packLine, hget]

/-- With at most one tile from the slot on, the slide is done. -/
theorem packLine_slot_zeros (pre : List Rank) (here : Rank) (n : Nat) :
    packLine (pre ++ here :: List.replicate n 0) =
      packLine (pre ++ mergeTiles ((here :: List.replicate n 0).filter (· ≠ 0))) := by
  by_cases hhere : here = 0
  · subst hhere
    rw [← List.replicate_succ, filter_zeros, packLine_append_zeros, mergeTiles, List.append_nil]
  · rw [filter_cons_tile hhere, filter_zeros, mergeTiles, ← packLine_append_zeros (pre ++ [here]) n,
      List.append_assoc, List.singleton_append]

/-! ### The turns of the loop -/

theorem nextTile_zeros (pre : List Rank) (here : Rank) (n : Nat) :
    nextTile (pre ++ here :: List.replicate n 0) (pre.length + 1) = none := by
  rw [nextTile, List.find?_eq_none]
  intro k _ htile
  simp only [Bool.and_eq_true, decide_eq_true_eq, bne_iff_ne] at htile
  obtain ⟨hge, hne⟩ := htile
  obtain ⟨j, rfl⟩ := Nat.exists_eq_add_of_le hge
  rw [getD_afterSlot, getD_zeros] at hne
  exact hne rfl

theorem nextTile_gapThen {pre : List Rank} {z : Nat} (hlen : pre.length + 1 + z < 4) (here : Rank) {t : Rank}
    (ht : t ≠ 0) (rest : List Rank) :
    nextTile (pre ++ here :: gapThen z t rest) (pre.length + 1) = some (pre.length + 1 + z) := by
  rw [nextTile, List.find?_range_eq_some]
  refine ⟨by rw [getD_afterSlot, getD_gapThen_self]; simpa using ht, List.mem_range.2 hlen, fun k hk => ?_⟩
  by_cases hge : pre.length + 1 ≤ k
  · obtain ⟨j, rfl⟩ := Nat.exists_eq_add_of_le hge
    rw [getD_afterSlot, getD_gapThen_lt (by omega)]
    simp
  · simp [hge]

theorem slideLoop_of_three_le {i : Nat} (hi : 3 ≤ i) (fuel : Nat) (line : List Rank) :
    slideLoop fuel i line = line := by
  cases fuel with
  | zero => rfl
  | succ fuel => rw [slideLoop, if_pos hi]

/-- With no tile after the slot the loop ends. -/
theorem slideLoop_zeros (fuel : Nat) (pre : List Rank) (here : Rank) (n : Nat) :
    slideLoop fuel pre.length (pre ++ here :: List.replicate n 0) = pre ++ here :: List.replicate n 0 := by
  cases fuel with
  | zero => rfl
  | succ fuel =>
    rw [slideLoop, nextTile_zeros]
    exact ite_self _

/-- One turn of the loop when `t` is the next tile after the slot: `t` is pulled into an empty slot, merges into an
equal tile, or stays. -/
theorem slideLoop_gapThen {pre : List Rank} {z : Nat} (hlen : pre.length + 1 + z < 4) (fuel : Nat) (here : Rank)
    {t : Rank} (ht : t ≠ 0) (rest : List Rank) :
    slideLoop (fuel + 1) pre.length (pre ++ here :: gapThen z t rest) =
      if here = 0 then slideLoop fuel pre.length (pre ++ t :: gapThen z 0 rest)
      else if here = t then
        slideLoop fuel (pre.length + 1) (pre ++ (if here = 15 then here else here + 1) :: gapThen z 0 rest)
      else slideLoop fuel (pre.length + 1) (pre ++ here :: gapThen z t rest) := by
  rw [slideLoop, if_neg (by omega), nextTile_gapThen hlen here ht]
  simp only [getD_slot, getD_afterSlot, getD_gapThen_self, set_slot_set_tile]

/-- The in-place merge of R93 gives the merged rank of R91. -/
theorem ite_succ_eq_mergedRank : ∀ t : Rank, (if t = 15 then t else t + 1) = mergedRank t := by decide

/-- The turns that the loop needs for the cells from its slot on: two for each cell after the slot, since a tile may be
pulled into the slot before the slot is final, and one more for a first tile to pull into an empty slot. -/
def turnsFor : List Rank → Nat
  | [] => 0
  | here :: rest => 2 * rest.length + if here = 0 then 1 else 0

theorem turnsFor_cons_tile {t : Rank} (ht : t ≠ 0) (rest : List Rank) : turnsFor (t :: rest) = 2 * rest.length := by
  rw [turnsFor, if_neg ht, Nat.add_zero]

theorem turnsFor_le (l : List Rank) : turnsFor l ≤ 2 * l.length - 1 := by
  cases l with
  | nil => simp [turnsFor]
  | cons here rest =>
    simp only [turnsFor, List.length_cons]
    split <;> omega

/-- What the loop does from the slot at the end of `pre` on: it keeps `pre` and slides the cells after it. -/
theorem packLine_slideLoop (fuel : Nat) (pre l : List Rank) (hlen : pre.length + l.length = 4)
    (hfuel : turnsFor l ≤ fuel) :
    packLine (slideLoop fuel pre.length (pre ++ l)) = packLine (pre ++ mergeTiles (l.filter (· ≠ 0))) := by
  induction fuel using Nat.strong_induction_on generalizing pre l with
  | _ fuel ih =>
  cases l with
  | nil =>
    rw [slideLoop_of_three_le (by simp at hlen; omega)]
    rfl
  | cons here rest =>
    obtain hzeros | ⟨z, t, rest, ht, rfl⟩ := eq_zeros_or_gapThen rest
    · rw [hzeros, slideLoop_zeros, packLine_slot_zeros]
    · simp only [List.length_cons, length_gapThen] at hlen
      simp only [turnsFor, length_gapThen] at hfuel
      obtain ⟨fuel, rfl⟩ : ∃ m, fuel = m + 1 := Nat.exists_eq_add_one.2 (by omega)
      have hnext (v : Rank) (u : Rank) :
          packLine (slideLoop fuel (pre.length + 1) (pre ++ v :: gapThen z u rest)) =
            packLine (pre ++ v :: mergeTiles ((gapThen z u rest).filter (· ≠ 0))) := by
        have hturns := turnsFor_le (gapThen z u rest)
        rw [length_gapThen] at hturns
        simpa using ih fuel (by omega) (pre ++ [v]) (gapThen z u rest) (by simp; omega) (by omega)
      rw [slideLoop_gapThen (by omega) fuel here ht rest]
      split
      next hempty =>
        rw [if_pos hempty] at hfuel
        have hpulled : turnsFor (t :: gapThen z 0 rest) ≤ fuel := by
          rw [turnsFor_cons_tile ht, length_gapThen]
          omega
        rw [ih fuel (by omega) pre (t :: gapThen z 0 rest) (by simp; omega) hpulled,
          filter_cons_tile ht, filter_gapThen_zero, List.filter_cons_of_neg (by simpa using hempty),
          filter_gapThen_tile z ht]
      next hhere =>
        rw [filter_cons_tile hhere, filter_gapThen_tile z ht, mergeTiles]
        split
        next hequal => rw [hnext, ite_succ_eq_mergedRank, filter_gapThen_zero]
        next hdiffer => rw [hnext, filter_gapThen_tile z ht]

/-- Settles O14: seven turns suffice for four cells, from slot 0 on. -/
theorem inPlaceSlideIsTheSame : Obligations.InPlaceSlideIsTheSame := by
  unfold Obligations.InPlaceSlideIsTheSame
  intro p
  have hfuel : turnsFor (nibbles p) ≤ 7 := turnsFor_le (nibbles p)
  rw [slideLInPlace, slideL, tiles]
  exact packLine_slideLoop 7 [] (nibbles p) rfl hfuel

end Sys2Proof.Machine
end

section
/-! SUPPORT. The statement of 40_table_generator.md R95. -/

namespace Sys2Proof.Machine

/-- Settles O15: for each of the sixteen ranks the comparison with the two midpoints is one of whole numbers. -/
theorem powerTableIsCorrectlyRounded : Obligations.PowerTableIsCorrectlyRounded := by
  unfold Obligations.PowerTableIsCorrectlyRounded
  decide

end Sys2Proof.Machine
end

section
/-! SUPPORT. What an executed command answers once the tables are built, and the statements of 41_move.md R111 to R114. -/

namespace Sys2Proof.Machine

/-- With built tables a command answers with its result under the contents of 40_table_generator.md R81. -/
theorem exec_of_built (i : Instr) {s : State} (hbuilt : s.built) (hcur : s.cur < s.ports.length) :
    exec i s = .next (s.answered (rspWord 0x00#8 (resultOf (tableEntry s.cfg) i))) := by
  rw [exec_eq, memRead_of_built hbuilt, respond_of_lt _ _ hcur, statusOk]

/-- Settles O20: the result of each vertical move is this XOR by definition, its shifts `4*c` written out. -/
theorem columnMovesXorColumnDeltas : Obligations.ColumnMovesXorColumnDeltas := by
  unfold Obligations.ColumnMovesXorColumnDeltas
  exact fun b s hbuilt hcur => ⟨exec_of_built (.moveUp b) hbuilt hcur, exec_of_built (.moveDown b) hbuilt hcur⟩

/-- Settles O21: the result of each horizontal move is this XOR by definition, its shifts `16*k` written out. -/
theorem rowMovesXorRowDeltas : Obligations.RowMovesXorRowDeltas := by
  unfold Obligations.RowMovesXorRowDeltas
  exact fun b s hbuilt hcur => ⟨exec_of_built (.moveLeft b) hbuilt hcur, exec_of_built (.moveRight b) hbuilt hcur⟩

end Sys2Proof.Machine
end

section
/-! SUPPORT. The lines of a board and what a move makes of each, and the statements of 41_move.md R115 to R117. -/

namespace Sys2Proof.Machine

/-! ### Rows and columns -/

/-- A board is given by its lines in any one direction. -/
theorem board_ext_lineOf (d : Direction) {a b : Board} (h : ∀ k < 4, lineOf d a k = lineOf d b k) : a = b := by
  have hcolumns (hcol : ∀ k < 4, column a k = column b k) : a = b :=
    board_ext_cell fun r hr c hc => by rw [← nib_column a c r hr, hcol c hc, nib_column b c r hr]
  cases d with
  | up => exact hcolumns h
  | down => exact hcolumns h
  | left => exact board_ext_row h
  | right => exact board_ext_row h

theorem column_transpose (b : Board) {k : Nat} (hk : k < 4) : column (transpose b) k = row b k := by
  apply pattern_ext
  intro j hj
  rw [nib_column _ _ _ hj, ← nib_row _ _ _ hk, row_transpose _ _ hj, nib_column _ _ _ hk, nib_row _ _ _ hj]

theorem row_mirror (b : Board) {k : Nat} (hk : k < 4) : row (mirror b) k = rev (row b k) := by
  interval_cases k <;> simp [mirror]

@[simp] theorem lineOf_zero (d : Direction) : ∀ k < 4, lineOf d 0 k = 0 := by
  cases d <;> decide

/-! ### A move slides every line -/

/-- Deltas laid on the four rows change each row by its own delta (41_move.md R113). -/
theorem row_xor_atRow (b : Board) (delta : Nat → BitVec 16) {k : Nat} (hk : k < 4) :
    row (b ^^^ atRow 0 (delta 0) ^^^ atRow 1 (delta 1) ^^^ atRow 2 (delta 2) ^^^ atRow 3 (delta 3)) k =
      row b k ^^^ delta k := by
  interval_cases k <;> simp [row_atRow]

/-- Spread deltas laid on the four columns change each column by its own delta (41_move.md R111). -/
theorem column_xor_atColumn_spread (b : Board) (delta : Nat → Pattern) {k : Nat} (hk : k < 4) :
    column (b ^^^ atColumn 0 (spread (delta 0)) ^^^ atColumn 1 (spread (delta 1)) ^^^ atColumn 2 (spread (delta 2)) ^^^
      atColumn 3 (spread (delta 3))) k = column b k ^^^ delta k := by
  apply pattern_ext
  intro j hj
  rw [nib_xor, nib_column _ _ _ hj, nib_column _ _ _ hj]
  interval_cases k <;> simp [cell_atColumn_spread, hj]

/-- Every line of the moved board is the slid line (41_move.md R115). -/
theorem lineOf_moveDir (c : Config) (d : Direction) (b : Board) {k : Nat} (hk : k < 4) :
    lineOf d (moveDir (tableEntry c) d b) k = slideToward d (lineOf d b k) := by
  cases d with
  | up =>
    have hmove := column_xor_atColumn_spread b (fun j => rowlEntry (colIndex b j)) hk
    simp only [← coluEntry_eq_spread] at hmove
    exact hmove.trans (by rw [colIndex, row_transpose _ _ hk, xor_rowlEntry]; rfl)
  | down =>
    have hmove := column_xor_atColumn_spread b (fun j => rowrEntry (colIndex b j)) hk
    simp only [← coldEntry_eq_spread] at hmove
    exact hmove.trans (by rw [colIndex, row_transpose _ _ hk, xor_rowrEntry]; rfl)
  | left => exact (row_xor_atRow b (fun j => rowlEntry (rowIndex b j)) hk).trans (xor_rowlEntry (row b k))
  | right => exact (row_xor_atRow b (fun j => rowrEntry (rowIndex b j)) hk).trans (xor_rowrEntry (row b k))

theorem row_moveLeft (c : Config) (b : Board) {k : Nat} (hk : k < 4) :
    row (moveLeft (tableEntry c) b) k = slideL (row b k) := lineOf_moveDir c .left b hk

theorem row_moveRight (c : Config) (b : Board) {k : Nat} (hk : k < 4) :
    row (moveRight (tableEntry c) b) k = slideR (row b k) := lineOf_moveDir c .right b hk

theorem column_moveUp (c : Config) (b : Board) {k : Nat} (hk : k < 4) :
    column (moveUp (tableEntry c) b) k = slideL (column b k) := lineOf_moveDir c .up b hk

theorem column_moveDown (c : Config) (b : Board) {k : Nat} (hk : k < 4) :
    column (moveDown (tableEntry c) b) k = slideR (column b k) := lineOf_moveDir c .down b hk

/-- Settles O22: the answered board is the moved one, and a row of a transpose is a column. -/
theorem movesSlideEveryLine : Obligations.MovesSlideEveryLine := by
  unfold Obligations.MovesSlideEveryLine
  intro b s hbuilt hcur
  refine ⟨⟨_, exec_of_built (.moveLeft b) hbuilt hcur, fun k hk => row_moveLeft s.cfg b hk⟩,
    ⟨_, exec_of_built (.moveRight b) hbuilt hcur, fun k hk => row_moveRight s.cfg b hk⟩,
    ⟨_, exec_of_built (.moveUp b) hbuilt hcur, fun k hk => ?_⟩,
    ⟨_, exec_of_built (.moveDown b) hbuilt hcur, fun k hk => ?_⟩⟩
  · rw [row_transpose _ _ hk, row_transpose _ _ hk]
    exact column_moveUp s.cfg b hk
  · rw [row_transpose _ _ hk, row_transpose _ _ hk]
    exact column_moveDown s.cfg b hk

/-- Settles O23: both sides of each equation have the same slid lines. -/
theorem movesAreConjugate : Obligations.MovesAreConjugate := by
  unfold Obligations.MovesAreConjugate
  intro b s hbuilt
  rw [memRead_of_built hbuilt]
  refine ⟨board_ext_lineOf .up fun k hk => ?_, board_ext_lineOf .down fun k hk => ?_, board_ext_row fun k hk => ?_⟩
  · calc column (moveUp (tableEntry s.cfg) b) k
        = slideL (column b k) := column_moveUp s.cfg b hk
      _ = row (moveLeft (tableEntry s.cfg) (transpose b)) k := by rw [row_moveLeft _ _ hk, row_transpose _ _ hk]
      _ = column (transpose (moveLeft (tableEntry s.cfg) (transpose b))) k := (column_transpose _ hk).symm
  · calc column (moveDown (tableEntry s.cfg) b) k
        = slideR (column b k) := column_moveDown s.cfg b hk
      _ = row (moveRight (tableEntry s.cfg) (transpose b)) k := by rw [row_moveRight _ _ hk, row_transpose _ _ hk]
      _ = column (transpose (moveRight (tableEntry s.cfg) (transpose b))) k := (column_transpose _ hk).symm
  · calc row (moveRight (tableEntry s.cfg) b) k
        = rev (slideL (rev (row b k))) := row_moveRight s.cfg b hk
      _ = rev (row (moveLeft (tableEntry s.cfg) (mirror b)) k) := by rw [row_moveLeft _ _ hk, row_mirror _ hk]
      _ = row (mirror (moveLeft (tableEntry s.cfg) (mirror b))) k := (row_mirror _ hk).symm

/-! ### No-op moves -/

/-- A move leaves the board as it is when every line is already slid (41_move.md R117). -/
theorem moveDir_eq_self_iff (c : Config) (d : Direction) (b : Board) :
    moveDir (tableEntry c) d b = b ↔ ∀ k < 4, slideToward d (lineOf d b k) = lineOf d b k := by
  constructor
  · intro h k hk
    rw [← lineOf_moveDir c d b hk, h]
  · intro h
    exact board_ext_lineOf d fun k hk => (lineOf_moveDir c d b hk).trans (h k hk)

theorem setWidth_eq_zero_iff (x : BitVec 16) : x.setWidth 64 = 0 ↔ x = 0 := by
  constructor
  · intro h
    bv_omega
  · rintro rfl
    rfl

/-- A delta read is zero when its line is already slid (40_table_generator.md R82). -/
theorem deltaOf_eq_zero_iff (c : Config) (d : Direction) (b : Board) {k : Nat} (hk : k < 4) :
    deltaOf (tableEntry c) d b k = 0 ↔ slideToward d (lineOf d b k) = lineOf d b k := by
  cases d with
  | up => exact (coluEntry_eq_zero_iff _).trans (by rw [colIndex, row_transpose _ _ hk]; rfl)
  | down => exact (coldEntry_eq_zero_iff _).trans (by rw [colIndex, row_transpose _ _ hk]; rfl)
  | left => exact (setWidth_eq_zero_iff _).trans (rowlEntry_eq_zero_iff _)
  | right => exact (setWidth_eq_zero_iff _).trans (rowrEntry_eq_zero_iff _)

theorem slideToward_zero (d : Direction) : slideToward d 0 = 0 := by
  cases d <;> decide

/-- Settles O24: each delta is zero exactly when its line is slid, and an empty line is slid. -/
theorem noOpMovesHaveSlidLines : Obligations.NoOpMovesHaveSlidLines := by
  unfold Obligations.NoOpMovesHaveSlidLines
  intro c d b
  refine ⟨?_, moveDir_eq_self_iff c d b, ?_⟩
  · rw [moveDir_eq_self_iff]
    exact forall₂_congr fun k hk => (deltaOf_eq_zero_iff c d b hk).symm
  · exact (moveDir_eq_self_iff c d 0).2 fun k hk => by rw [lineOf_zero d k hk, slideToward_zero]

end Sys2Proof.Machine
end

section
/-! SUPPORT. The tiles of a slid line, what a pass over them keeps and loses, and the statements of 41_move.md R119 and
R121. -/

namespace Sys2Proof.Machine

/-! ### The tiles of a packed line -/

theorem ne_zero_of_mem_tiles {p : Pattern} {t : Rank} (h : t ∈ tiles p) : t ≠ 0 := by
  simpa using (List.mem_filter.1 h).2

theorem length_tiles_le (p : Pattern) : (tiles p).length ≤ 4 := List.length_filter_le _ (nibbles p)

/-- A packed line has the listed ranks first and empty cells after them (40_table_generator.md R91, last lines). -/
theorem nibbles_packLine {l : List Rank} (hlen : l.length ≤ 4) :
    nibbles (packLine l) = l ++ List.replicate (4 - l.length) 0 := by
  match l with
  | [] => rfl
  | [_] => simp [nibbles, packLine, List.replicate]
  | [_, _] => simp [nibbles, packLine, List.replicate]
  | [_, _, _] => simp [nibbles, packLine]
  | [_, _, _, _] => simp [nibbles, packLine]
  | _ :: _ :: _ :: _ :: _ :: _ => simp only [List.length_cons] at hlen; omega

theorem tiles_packLine {l : List Rank} (hlen : l.length ≤ 4) (htiles : ∀ t ∈ l, t ≠ 0) : tiles (packLine l) = l := by
  have hkept : l.filter (· ≠ 0) = l := List.filter_eq_self.2 fun t ht => by simpa using htiles t ht
  rw [tiles, nibbles_packLine hlen, List.filter_append, filter_zeros, List.append_nil, hkept]

theorem nib_packLine (l : List Rank) {k : Nat} (hk : k < 4) : nib (packLine l) k = l.getD k 0 := by
  interval_cases k <;> simp [packLine]

theorem compactedLow_packLine {l : List Rank} (htiles : ∀ t ∈ l, t ≠ 0) : compactedLow (packLine l) := by
  intro k hk hempty
  rw [nib_packLine l (by omega)] at hempty ⊢
  have hend : l.length ≤ k := by
    by_contra hlt
    rw [List.getD_eq_getElem _ _ (by omega)] at hempty
    exact htiles _ (List.getElem_mem _) hempty
  exact List.getD_eq_default _ _ (by omega)

theorem packLine_nibbles (p : Pattern) : packLine (nibbles p) = p :=
  pattern_ext fun k hk => by rw [nib_packLine _ hk]; interval_cases k <;> rfl

/-- Cells in which no tile follows an empty cell are their tiles and then empty cells. -/
theorem exists_eq_filter_append_zeros {l : List Rank} (h : l.IsChain fun t u => t = 0 → u = 0) :
    ∃ n, l = l.filter (· ≠ 0) ++ List.replicate n 0 := by
  induction l with
  | nil => exact ⟨0, rfl⟩
  | cons x xs ih =>
    obtain ⟨n, hxs⟩ := ih h.tail
    by_cases hx : x = 0
    · subst hx
      have hnone : xs.filter (· ≠ 0) = [] := by
        cases hfilter : xs.filter (· ≠ 0) with
        | nil => rfl
        | cons t ts =>
          rw [hxs, hfilter, List.cons_append, List.isChain_cons_cons] at h
          have ht : t ∈ xs.filter (· ≠ 0) := by rw [hfilter]; exact List.mem_cons_self
          exact absurd (h.1 rfl) (by simpa using (List.mem_filter.1 ht).2)
      rw [hnone, List.nil_append] at hxs
      exact ⟨n + 1, by rw [List.filter_cons_of_neg (by simp), hnone, List.nil_append, List.replicate_succ, ← hxs]⟩
    · exact ⟨n, by rw [filter_cons_tile hx, List.cons_append, ← hxs]⟩

/-- A compacted line is given by its tiles. -/
theorem packLine_tiles {p : Pattern} (h : compactedLow p) : packLine (tiles p) = p := by
  have hchain : (nibbles p).IsChain fun t u => t = 0 → u = 0 := by
    simpa [nibbles] using ⟨h 0 (by decide), h 1 (by decide), h 2 (by decide)⟩
  obtain ⟨n, hn⟩ := exists_eq_filter_append_zeros hchain
  rw [tiles, ← packLine_append_zeros _ n, ← hn, packLine_nibbles]

/-! ### One pass over the tiles -/

theorem mergedRank_ne_zero : ∀ t : Rank, mergedRank t ≠ 0 := by decide

theorem ne_zero_of_mem_mergeTiles {l : List Rank} (h : ∀ t ∈ l, t ≠ 0) : ∀ t ∈ mergeTiles l, t ≠ 0 := by
  induction l using mergeTiles.induct with
  | case1 => exact h
  | case2 t => exact h
  | case3 t ts ih =>
    simp only [mergeTiles, if_true, List.forall_mem_cons] at h ⊢
    exact ⟨mergedRank_ne_zero t, ih h.2.2⟩
  | case4 t u ts hne ih =>
    rw [mergeTiles, if_neg hne, List.forall_mem_cons]
    rw [List.forall_mem_cons] at h
    exact ⟨h.1, ih h.2⟩

/-- A merge of two tiles of rank `t` keeps the weight `f` when the merged tile weighs what the two did. -/
def keepsWeight (f : Rank → Nat) (t u : Rank) : Prop := t = u → f (mergedRank t) = f t + f t

theorem keepsWeight_comm (f : Rank → Nat) (t u : Rank) : keepsWeight f t u ↔ keepsWeight f u t := by
  constructor
  · rintro h rfl
    exact h rfl
  · rintro h rfl
    exact h rfl

/-- Every merge loses a tile. -/
theorem keepsWeight_one_iff (t u : Rank) : keepsWeight (fun _ => 1) t u ↔ t ≠ u := by simp [keepsWeight]

/-- Only a merge of two tiles of rank 15 does not double the value (40_table_generator.md R92). -/
theorem two_pow_mergedRank : ∀ t : Rank,
    2 ^ (mergedRank t).toNat ≤ 2 ^ t.toNat + 2 ^ t.toNat ∧
      (2 ^ (mergedRank t).toNat = 2 ^ t.toNat + 2 ^ t.toNat ↔ t ≠ 15) := by decide

theorem keepsWeight_two_pow_iff (t u : Rank) :
    keepsWeight (fun t => 2 ^ t.toNat) t u ↔ ¬ (t = 15 ∧ u = 15) := by
  rw [keepsWeight, (two_pow_mergedRank t).2]
  constructor
  · rintro h ⟨rfl, rfl⟩
    exact h rfl rfl
  · rintro h rfl ht
    exact h ⟨ht, ht⟩

/-- When no merge adds weight, a pass adds none, and it keeps the weight when each pair of equal neighbours does. -/
theorem sum_map_mergeTiles {f : Rank → Nat} (hf : ∀ t, f (mergedRank t) ≤ f t + f t) (l : List Rank) :
    ((mergeTiles l).map f).sum ≤ (l.map f).sum ∧
      (((mergeTiles l).map f).sum = (l.map f).sum ↔ l.IsChain (keepsWeight f)) := by
  induction l using mergeTiles.induct with
  | case1 => simp [mergeTiles]
  | case2 t => simp [mergeTiles]
  | case3 t ts ih =>
    obtain ⟨hle, heq⟩ := ih
    have ht := hf t
    simp only [mergeTiles, if_true, List.map_cons, List.sum_cons, List.isChain_cons_cons]
    refine ⟨by omega, ?_⟩
    by_cases hkeep : f (mergedRank t) = f t + f t
    · have hall (u : Rank) : keepsWeight f t u := fun _ => hkeep
      rw [and_iff_right (hall t), List.isChain_cons, and_iff_right fun u _ => hall u, ← heq]
      omega
    · have hloss : ¬ keepsWeight f t t := fun h => hkeep (h rfl)
      simp only [hloss, false_and, iff_false]
      omega
  | case4 t u ts hne ih =>
    obtain ⟨hle, heq⟩ := ih
    have hkeep : keepsWeight f t u := fun h => absurd h hne
    rw [mergeTiles, if_neg hne, List.isChain_cons_cons, and_iff_right hkeep, ← heq]
    simp only [List.map_cons, List.sum_cons] at hle ⊢
    omega

theorem length_mergeTiles_le (l : List Rank) : (mergeTiles l).length ≤ l.length := by
  simpa using (sum_map_mergeTiles (f := fun _ => 1) (fun _ => by decide) l).1

/-- A pass without a merge changes nothing. -/
theorem mergeTiles_eq_self {l : List Rank} (h : l.IsChain (keepsWeight fun _ => 1)) : mergeTiles l = l := by
  induction l using mergeTiles.induct with
  | case1 => rfl
  | case2 t => rfl
  | case3 t ts ih => exact absurd rfl ((keepsWeight_one_iff t t).1 (List.isChain_cons_cons.1 h).1)
  | case4 t u ts hne ih => rw [mergeTiles, if_neg hne, ih h.tail]

/-! ### The slide toward index 0 -/

theorem tiles_slideL (p : Pattern) : tiles (slideL p) = mergeTiles (tiles p) :=
  tiles_packLine ((length_mergeTiles_le _).trans (length_tiles_le p))
    (ne_zero_of_mem_mergeTiles fun _ ht => ne_zero_of_mem_tiles ht)

theorem compactedLow_slideL (p : Pattern) : compactedLow (slideL p) :=
  compactedLow_packLine (ne_zero_of_mem_mergeTiles fun _ ht => ne_zero_of_mem_tiles ht)

/-- A relation between neighbours fails at some two of them. -/
theorem not_isChain_iff {R : Rank → Rank → Prop} (l : List Rank) :
    ¬ l.IsChain R ↔ ∃ i t u, l[i]? = some t ∧ l[i + 1]? = some u ∧ ¬ R t u := by
  simp only [List.isChain_iff_getElem, not_forall]
  constructor
  · rintro ⟨i, hi, hfails⟩
    exact ⟨i, _, _, List.getElem?_eq_getElem _, List.getElem?_eq_getElem hi, hfails⟩
  · rintro ⟨i, t, u, ht, hu, hfails⟩
    obtain ⟨hi, rfl⟩ := List.getElem?_eq_some_iff.1 hu
    obtain ⟨_, rfl⟩ := List.getElem?_eq_some_iff.1 ht
    exact ⟨i, hi, hfails⟩

/-- A line merges when a pass over it loses a tile. -/
theorem lineMerges_iff (p : Pattern) : lineMerges p ↔ ¬ (tiles p).IsChain (keepsWeight fun _ => 1) := by
  simp only [not_isChain_iff, keepsWeight_one_iff, not_not]
  constructor
  · rintro ⟨i, t, ht, hu⟩
    exact ⟨i, t, t, ht, hu, rfl⟩
  · rintro ⟨i, t, _, ht, hu, rfl⟩
    exact ⟨i, t, ht, hu⟩

/-- A line saturates when a pass over it loses value. -/
theorem lineSaturates_iff (p : Pattern) :
    lineSaturates p ↔ ¬ (tiles p).IsChain (keepsWeight fun t => 2 ^ t.toNat) := by
  simp only [not_isChain_iff, keepsWeight_two_pow_iff, not_not]
  constructor
  · rintro ⟨i, ht, hu⟩
    exact ⟨i, 15, 15, ht, hu, rfl, rfl⟩
  · rintro ⟨i, _, _, ht, hu, rfl, rfl⟩
    exact ⟨i, ht, hu⟩

theorem slideL_eq_self {p : Pattern} (hcompact : compactedLow p) (hmerges : ¬ lineMerges p) : slideL p = p := by
  rw [lineMerges_iff, not_not] at hmerges
  rw [slideL, mergeTiles_eq_self hmerges, packLine_tiles hcompact]

/-! ### The slide toward either edge -/

/-- A line read from the edge that a move in direction `d` moves toward: reversed for down and right. -/
def fromEdge (d : Direction) (p : Pattern) : Pattern :=
  match d with
  | .up => p
  | .down => rev p
  | .left => p
  | .right => rev p

@[simp] theorem fromEdge_fromEdge (d : Direction) (p : Pattern) : fromEdge d (fromEdge d p) = p := by
  cases d <;> simp [fromEdge]

theorem fromEdge_eq (d : Direction) (p : Pattern) : fromEdge d p = p ∨ fromEdge d p = rev p := by
  cases d <;> simp [fromEdge]

/-- Read from its edge, every slide is `slideL` (40_table_generator.md R86). -/
theorem slideToward_eq (d : Direction) (p : Pattern) : slideToward d p = fromEdge d (slideL (fromEdge d p)) := by
  cases d <;> rfl

theorem compactedHigh_iff (p : Pattern) : compactedHigh p ↔ compactedLow (rev p) := by
  constructor
  · intro h k hk hempty
    rw [nib_rev _ _ (by omega)] at hempty ⊢
    exact h (3 - (k + 1)) (by omega) (by rwa [show 3 - (k + 1) + 1 = 3 - k by omega])
  · intro h k hk hempty
    have hrev := h (3 - (k + 1)) (by omega)
    rw [nib_rev _ _ (by omega), nib_rev _ _ (by omega), show 3 - (3 - (k + 1)) = k + 1 by omega,
      show 3 - (3 - (k + 1) + 1) = k by omega] at hrev
    exact hrev hempty

theorem compactedToward_iff (d : Direction) (p : Pattern) : compactedToward d p ↔ compactedLow (fromEdge d p) := by
  cases d with
  | up => exact Iff.rfl
  | down => exact compactedHigh_iff p
  | left => exact Iff.rfl
  | right => exact compactedHigh_iff p

theorem tiles_rev (p : Pattern) : tiles (rev p) = (tiles p).reverse := by
  have hrev : nibbles (rev p) = (nibbles p).reverse := by simp [nibbles]
  rw [tiles, hrev, List.filter_reverse, tiles]

/-- A merge does not depend on the side from which a line is read. -/
theorem isChain_keepsWeight_fromEdge (f : Rank → Nat) (d : Direction) (p : Pattern) :
    (tiles (fromEdge d p)).IsChain (keepsWeight f) ↔ (tiles p).IsChain (keepsWeight f) := by
  have hswap : (fun t u => keepsWeight f u t) = keepsWeight f := funext₂ fun t u => propext (keepsWeight_comm f u t)
  obtain hsame | hrev := fromEdge_eq d p
  · rw [hsame]
  · rw [hrev, tiles_rev, List.isChain_reverse, hswap]

theorem lineMerges_fromEdge (d : Direction) (p : Pattern) : lineMerges (fromEdge d p) ↔ lineMerges p := by
  rw [lineMerges_iff, lineMerges_iff, isChain_keepsWeight_fromEdge]

theorem compactedToward_slideToward (d : Direction) (p : Pattern) : compactedToward d (slideToward d p) := by
  rw [compactedToward_iff, slideToward_eq, fromEdge_fromEdge]
  exact compactedLow_slideL _

/-- A compacted line in which nothing merges is slid already. -/
theorem slideToward_eq_self {d : Direction} {p : Pattern} (hcompact : compactedToward d p) (hmerges : ¬ lineMerges p) :
    slideToward d p = p := by
  rw [slideToward_eq, slideL_eq_self ((compactedToward_iff d p).1 hcompact)
    (fun h => hmerges ((lineMerges_fromEdge d p).1 h)), fromEdge_fromEdge]

/-- The result of MOVE.LEFT on a board whose slid rows are known. -/
theorem moveLeft_eq_of_rows (c : Config) {a b : Board} (h : ∀ k < 4, slideL (row a k) = row b k) :
    moveLeft (tableEntry c) a = b :=
  board_ext_row fun k hk => (row_moveLeft c a hk).trans (h k hk)

/-- Settles O25: a move leaves compacted lines, and a second one changes such a line by merging only. -/
theorem movesCompactButMayMergeAgain : Obligations.MovesCompactButMayMergeAgain := by
  unfold Obligations.MovesCompactButMayMergeAgain
  have hcompact (c : Config) (d : Direction) (b : Board) :
      ∀ k < 4, compactedToward d (lineOf d (moveDir (tableEntry c) d b) k) := fun k hk => by
    rw [lineOf_moveDir c d b hk]
    exact compactedToward_slideToward d _
  refine ⟨fun c d b => ⟨hcompact c d b, fun hchanges => ?_⟩, fun c => ?_⟩
  · by_contra hnone
    refine hchanges ((moveDir_eq_self_iff c d _).2 fun k hk => ?_)
    exact slideToward_eq_self (hcompact c d b k hk) fun hmerges => hnone ⟨k, hk, hmerges⟩
  · have hfirst : moveLeft (tableEntry c) 0x0000000000000211#64 = 0x0000000000000022#64 :=
      moveLeft_eq_of_rows c (by decide)
    have hsecond : moveLeft (tableEntry c) 0x0000000000000022#64 = 0x0000000000000003#64 :=
      moveLeft_eq_of_rows c (by decide)
    exact ⟨hfirst, by rw [hfirst, hsecond]⟩

/-! ### Empty cells and tile values of a line -/

/-- The sum of a weight over the tiles of a line. -/
def tilesWeight (f : Rank → Nat) (p : Pattern) : Nat := ((tiles p).map f).sum

theorem tilesWeight_fromEdge (f : Rank → Nat) (d : Direction) (p : Pattern) :
    tilesWeight f (fromEdge d p) = tilesWeight f p := by
  obtain hsame | hrev := fromEdge_eq d p
  · rw [hsame]
  · rw [hrev, tilesWeight, tiles_rev, List.map_reverse, List.sum_reverse, tilesWeight]

/-- What a slide does to the weight of a line, when no merge adds weight. -/
theorem tilesWeight_slideToward {f : Rank → Nat} (hf : ∀ t, f (mergedRank t) ≤ f t + f t) (d : Direction)
    (p : Pattern) :
    tilesWeight f (slideToward d p) ≤ tilesWeight f p ∧
      (tilesWeight f (slideToward d p) = tilesWeight f p ↔ (tiles p).IsChain (keepsWeight f)) := by
  rw [slideToward_eq, tilesWeight_fromEdge, ← tilesWeight_fromEdge f d p, ← isChain_keepsWeight_fromEdge f d p,
    tilesWeight, tiles_slideL]
  exact sum_map_mergeTiles hf _

/-- The four cells of a line are its empty cells and its tiles. -/
theorem emptyCells_add_length_tiles (p : Pattern) : emptyCells p + (tiles p).length = 4 := by
  have hsplit : 4 = _ := List.length_eq_countP_add_countP (l := nibbles p) (· == 0)
  rw [emptyCells, tiles, ← List.countP_eq_length_filter]
  simpa using hsplit.symm

theorem tilesWeight_one (p : Pattern) : tilesWeight (fun _ => 1) p = (tiles p).length := by simp [tilesWeight]

theorem lineValue_eq_tilesWeight (p : Pattern) : lineValue p = tilesWeight (fun t => 2 ^ t.toNat) p := by
  rw [lineValue, tilesWeight, tiles]
  induction nibbles p with
  | nil => rfl
  | cons t ts ih =>
    by_cases ht : t = 0
    · subst ht
      rw [List.filter_cons_of_neg (by simp), ← ih]
      simp [cellValue]
    · rw [filter_cons_tile ht, List.map_cons, List.map_cons, List.sum_cons, List.sum_cons, ih, cellValue, if_neg ht]

/-- A slide never has fewer empty cells, and has as many when nothing merges. -/
theorem emptyCells_slideToward (d : Direction) (p : Pattern) :
    emptyCells p ≤ emptyCells (slideToward d p) ∧
      (emptyCells p = emptyCells (slideToward d p) ↔ ¬ lineMerges p) := by
  obtain ⟨hle, heq⟩ := tilesWeight_slideToward (f := fun _ => 1) (fun _ => by decide) d p
  have hbefore := emptyCells_add_length_tiles p
  have hafter := emptyCells_add_length_tiles (slideToward d p)
  rw [tilesWeight_one, tilesWeight_one] at hle heq
  rw [lineMerges_iff, not_not, ← heq]
  omega

/-- A slide never adds to the sum of the tile values, and keeps it when no two tiles of rank 15 merge. -/
theorem lineValue_slideToward (d : Direction) (p : Pattern) :
    lineValue (slideToward d p) ≤ lineValue p ∧
      (lineValue (slideToward d p) = lineValue p ↔ ¬ lineSaturates p) := by
  rw [lineSaturates_iff, not_not, lineValue_eq_tilesWeight, lineValue_eq_tilesWeight]
  exact tilesWeight_slideToward (fun t => (two_pow_mergedRank t).1) d p

/-! ### Empty cells and tile values of a board -/

theorem sum_map_nibbles (g : Rank → Nat) (p : Pattern) :
    ((nibbles p).map g).sum = ∑ j ∈ Finset.range 4, g (nib p j) := by
  simp [nibbles, Finset.sum_range_succ, add_assoc]

/-- A sum over the cells of a board is the sum over its lines in any one direction. -/
theorem sum_lineOf (g : Rank → Nat) (d : Direction) (b : Board) :
    ∑ k ∈ Finset.range 4, ((nibbles (lineOf d b k)).map g).sum =
      ∑ k ∈ Finset.range 4, ((nibbles (row b k)).map g).sum := by
  have hcolumns : ∑ k ∈ Finset.range 4, ((nibbles (column b k)).map g).sum =
      ∑ k ∈ Finset.range 4, ((nibbles (row b k)).map g).sum := by
    simp only [sum_map_nibbles]
    rw [Finset.sum_comm]
    refine Finset.sum_congr rfl fun r hr => Finset.sum_congr rfl fun c hc => ?_
    rw [nib_column _ _ _ (Finset.mem_range.1 hr), nib_row _ _ _ (Finset.mem_range.1 hc)]
  cases d with
  | up => exact hcolumns
  | down => exact hcolumns
  | left => rfl
  | right => rfl

theorem emptyCells_eq_sum (p : Pattern) : emptyCells p = ((nibbles p).map fun t => if t = 0 then 1 else 0).sum := by
  rw [emptyCells]
  induction nibbles p with
  | nil => rfl
  | cons t ts ih => simp only [List.countP_cons, List.map_cons, List.sum_cons, ih, beq_iff_eq, add_comm]

theorem boardEmpties_eq_sum (d : Direction) (b : Board) :
    boardEmpties b = ∑ k ∈ Finset.range 4, emptyCells (lineOf d b k) := by
  simp only [boardEmpties, emptyCells_eq_sum]
  rw [sum_lineOf]
  simp only [Finset.sum_range_succ, Finset.sum_range_zero, zero_add]

theorem boardValue_eq_sum (d : Direction) (b : Board) :
    boardValue b = ∑ k ∈ Finset.range 4, lineValue (lineOf d b k) := by
  simp only [boardValue, lineValue]
  rw [sum_lineOf]
  simp only [Finset.sum_range_succ, Finset.sum_range_zero, zero_add]

/-- Four values of which none is above its counterpart add up to less when one of them is below it. -/
theorem sum_lines_le_and_lt_iff {f g : Nat → Nat} {P : Nat → Prop}
    (h : ∀ k < 4, f k ≤ g k ∧ (f k = g k ↔ ¬ P k)) :
    ∑ k ∈ Finset.range 4, f k ≤ ∑ k ∈ Finset.range 4, g k ∧
      (∑ k ∈ Finset.range 4, f k < ∑ k ∈ Finset.range 4, g k ↔ ∃ k, k < 4 ∧ P k) := by
  have hle : ∀ k ∈ Finset.range 4, f k ≤ g k := fun k hk => (h k (Finset.mem_range.1 hk)).1
  refine ⟨Finset.sum_le_sum hle, ?_⟩
  rw [(Finset.sum_le_sum hle).lt_iff_ne, Ne, Finset.sum_eq_sum_iff_of_le hle]
  simp only [Finset.mem_range, not_forall, exists_prop]
  exact exists_congr fun k => and_congr_right fun hk => by rw [(h k hk).2, not_not]

theorem boardEmpties_moveDir (c : Config) (d : Direction) (b : Board) :
    boardEmpties b ≤ boardEmpties (moveDir (tableEntry c) d b) ∧
      (boardEmpties b < boardEmpties (moveDir (tableEntry c) d b) ↔ ∃ k, k < 4 ∧ lineMerges (lineOf d b k)) := by
  rw [boardEmpties_eq_sum d, boardEmpties_eq_sum d]
  refine sum_lines_le_and_lt_iff fun k hk => ?_
  rw [lineOf_moveDir c d b hk]
  exact emptyCells_slideToward d _

theorem boardValue_moveDir (c : Config) (d : Direction) (b : Board) :
    boardValue (moveDir (tableEntry c) d b) ≤ boardValue b ∧
      (boardValue (moveDir (tableEntry c) d b) < boardValue b ↔ ∃ k, k < 4 ∧ lineSaturates (lineOf d b k)) := by
  rw [boardValue_eq_sum d, boardValue_eq_sum d b]
  refine sum_lines_le_and_lt_iff fun k hk => ?_
  rw [lineOf_moveDir c d b hk]
  exact lineValue_slideToward d _

/-- Settles O26: both measures are sums over the lines of the move, and each line's slide is known. -/
theorem movesKeepEmptyCellsAndTileSums : Obligations.MovesKeepEmptyCellsAndTileSums := by
  unfold Obligations.MovesKeepEmptyCellsAndTileSums
  refine ⟨fun c d b => ?_, fun c => ⟨by decide, ?_⟩⟩
  · obtain ⟨hempties, hmerges⟩ := boardEmpties_moveDir c d b
    obtain ⟨hvalue, hsaturates⟩ := boardValue_moveDir c d b
    refine ⟨hempties, hmerges, fun hnone => hvalue.antisymm (not_lt.1 fun hlt => ?_), hsaturates.2⟩
    obtain ⟨k, hk, hline⟩ := hsaturates.1 hlt
    exact hnone k hk hline
  · have hmove : moveDir (tableEntry c) .left 0x00000000000000FF#64 = 0x000000000000000F#64 :=
      moveLeft_eq_of_rows c (by decide)
    rw [hmove]
    decide

end Sys2Proof.Machine
end

section
/-! SUPPORT. The two scores of EVAL under the contents of the built tables, and the statement of 42_eval.md R132. -/

namespace Sys2Proof.Machine

/-- The row score reads the heuristic of the four rows (40_table_generator.md R81, 42_eval.md R132). -/
theorem rowScore_tableEntry (c : Config) (b : Board) :
    rowScore (tableEntry c) b =
      sumFour (heur c (row b 0)) (heur c (row b 1)) (heur c (row b 2)) (heur c (row b 3)) := rfl

/-- The column score reads the heuristic of the four rows of the transpose (40_table_generator.md R81, 42_eval.md
R132). -/
theorem colScore_tableEntry (c : Config) (b : Board) :
    colScore (tableEntry c) b =
      sumFour (heur c (row (transpose b) 0)) (heur c (row (transpose b) 1)) (heur c (row (transpose b) 2))
        (heur c (row (transpose b) 3)) := rfl

/-- Settles O27: EVAL answers the row score plus the column score, each a sum of four heuristics from the left. -/
theorem evalSumsRowsThenColumns : Obligations.EvalSumsRowsThenColumns := by
  unfold Obligations.EvalSumsRowsThenColumns
  intro b s hbuilt hcur
  have hresult : resultOf (tableEntry s.cfg) (.eval b) =
      fadd (rowScore (tableEntry s.cfg) b) (colScore (tableEntry s.cfg) b) := rfl
  rw [exec_of_built (.eval b) hbuilt hcur, hresult, rowScore_tableEntry, colScore_tableEntry, sumFour, sumFour]

end Sys2Proof.Machine
end

section
/-! SUPPORT. The cells of the transpose and of the two stages of the mask sequence, and the statements of 43_xpose.md
R141 to R144. -/

namespace Sys2Proof.Machine

/-- Cell `(r, c)` of the transpose is cell `(c, r)` (43_xpose.md R141). -/
theorem cell_transpose (b : Board) {r c : Nat} (hr : r < 4) (hc : c < 4) : cell (transpose b) r c = cell b c r := by
  rw [← nib_row _ _ _ hc, row_transpose _ _ hr, nib_column _ _ _ hc]

/-- Settles O34: the answer is the transpose, whose cells are known. -/
theorem xposeExchangesRowsAndColumns : Obligations.XposeExchangesRowsAndColumns := by
  unfold Obligations.XposeExchangesRowsAndColumns
  intro b s hcur
  exact ⟨transpose b, respond_of_lt statusOk (transpose b) hcur, fun r hr c hc => cell_transpose b hr hc⟩

/-- Settles O35: the cells of a board are exchanged and exchanged back. -/
theorem transposeIsAnInvolution : Obligations.TransposeIsAnInvolution := by
  unfold Obligations.TransposeIsAnInvolution
  intro b
  exact board_ext_cell fun r hr c hc => by rw [cell_transpose _ hr hc, cell_transpose _ hc hr]

/-! ### The mask sequence -/

/-- What both stages of the mask sequence do (43_xpose.md R143): some nibbles stay, some move `k` places up and some
`k` places down. -/
def moveNibbles (stay up down : Board) (k : Nat) (x : Board) : Board :=
  (x &&& stay) ||| ((x &&& up) <<< (4 * k)) ||| ((x &&& down) >>> (4 * k))

/-- The first stage: each 2×2 block of cells is transposed in its place. -/
def transposeInBlocks (x : Board) : Board :=
  moveNibbles 0xF0F00F0FF0F00F0F#64 0x0000F0F00000F0F0#64 0x0F0F00000F0F0000#64 3 x

/-- The second stage: the two 2×2 blocks off the diagonal are exchanged. -/
def exchangeBlocks (x : Board) : Board :=
  moveNibbles 0xFF00FF0000FF00FF#64 0x00000000FF00FF00#64 0x00FF00FF00000000#64 6 x

theorem transposeByMasks_eq (x : Board) : transposeByMasks x = exchangeBlocks (transposeInBlocks x) := by
  have hswap (a b c : Board) : a ||| b ||| c = a ||| c ||| b := by
    rw [BitVec.or_assoc, BitVec.or_comm b, BitVec.or_assoc]
  exact hswap _ _ _

@[simp] theorem nib_and {w : Nat} (a b : BitVec w) (i : Nat) : nib (a &&& b) i = nib a i &&& nib b i :=
  BitVec.extractLsb'_and

@[simp] theorem nib_or {w : Nat} (a b : BitVec w) (i : Nat) : nib (a ||| b) i = nib a i ||| nib b i :=
  BitVec.extractLsb'_or

/-- A left shift by whole nibbles moves the nibbles up and fills with empty ones. -/
theorem nib_shiftLeft (x : Board) (k : Nat) {i : Nat} (hi : i < 16) :
    nib (x <<< (4 * k)) i = if k ≤ i then nib x (i - k) else 0 := by
  apply BitVec.eq_of_getLsbD_eq
  intro j hj
  rw [nib_bit, BitVec.getLsbD_shiftLeft]
  split
  · rw [nib_bit, show 4 * i + j - 4 * k = 4 * (i - k) + j by omega]
    simp [show 4 * i + j < 64 by omega, show ¬ 4 * i + j < 4 * k by omega]
  · simp [show 4 * i + j < 4 * k by omega]

/-- A right shift by whole nibbles moves the nibbles down. -/
theorem nib_shiftRight (x : Board) (k i : Nat) : nib (x >>> (4 * k)) i = nib x (i + k) := by
  apply BitVec.eq_of_getLsbD_eq
  intro j hj
  rw [nib_bit, nib_bit, BitVec.getLsbD_ushiftRight, show 4 * k + (4 * i + j) = 4 * (i + k) + j by omega]

/-- A nibble is collected from the three places that it can come from. -/
theorem nib_moveNibbles (stay up down : Board) (k : Nat) (x : Board) {i : Nat} (hi : i < 16) :
    nib (moveNibbles stay up down k x) i =
      (nib x i &&& nib stay i) ||| (if k ≤ i then nib x (i - k) &&& nib up (i - k) else 0) |||
        (nib x (i + k) &&& nib down (i + k)) := by
  simp [moveNibbles, nib_shiftLeft _ _ hi, nib_shiftRight]

/-- A nibble under a full mask is kept. -/
theorem rank_and_full (t : Rank) : t &&& 15#4 = t := BitVec.and_allOnes

theorem cell_transposeInBlocks (x : Board) {r c : Nat} (hr : r < 4) (hc : c < 4) :
    cell (transposeInBlocks x) r c = cell x (2 * (r / 2) + c % 2) (2 * (c / 2) + r % 2) := by
  rw [cell, transposeInBlocks, nib_moveNibbles _ _ _ _ _ (by omega)]
  interval_cases r <;> interval_cases c <;> simp [nib, cell, rank_and_full]

theorem cell_exchangeBlocks (x : Board) {r c : Nat} (hr : r < 4) (hc : c < 4) :
    cell (exchangeBlocks x) r c = cell x (2 * (c / 2) + r % 2) (2 * (r / 2) + c % 2) := by
  rw [cell, exchangeBlocks, nib_moveNibbles _ _ _ _ _ (by omega)]
  interval_cases r <;> interval_cases c <;> simp [nib, cell, rank_and_full]

/-- Settles O36: a cell goes to its place in the block first, and with the block to its place in the board. -/
theorem maskSequenceTransposes : Obligations.MaskSequenceTransposes := by
  unfold Obligations.MaskSequenceTransposes
  intro b
  refine board_ext_cell fun r hr c hc => ?_
  rw [transposeByMasks_eq, cell_exchangeBlocks _ hr hc, cell_transposeInBlocks _ (by omega) (by omega),
    cell_transpose _ hr hc]
  congr 1 <;> omega

end Sys2Proof.Machine
end

section
/-! SUPPORT. The invariant is kept by every named update of the state, and so by every step (10_state.md R20, R31, R34;
70_reset_and_hazards.md R181, R182). -/

namespace Sys2Proof.Machine

/-- What the invariant asks of one response queue (10_state.md R20, R31, R34; 30_encoding.md R64). -/
structure State.queueOk (s : State) (rs : List RspWord) : Prop where
  empty : s.ready = false → rs = []
  bounded : ∀ m, s.cfg.maxOutstanding = some m → rs.length ≤ m
  legal : ∀ w ∈ rs, legalResponse w = true

theorem queueOk_of_inv {s : State} (h : s.Inv) {q : Port} (hq : q ∈ s.ports) : s.queueOk q.rspq :=
  ⟨fun hr => h.unready_empty hr q hq, h.queues_bounded q hq, h.queues_legal q hq⟩

theorem queueOk_nil (s : State) : s.queueOk [] := ⟨fun _ => rfl, by simp, by simp⟩

theorem queueOk_tail {s : State} {rs : List RspWord} (h : s.queueOk rs) : s.queueOk rs.tail where
  empty hr := by rw [h.empty hr, List.tail_nil]
  bounded m hm := by
    have hlen := h.bounded m hm
    rw [List.length_tail]
    omega
  legal w hw := h.legal w (List.mem_of_mem_tail hw)

/-- A port that may accept a command has room for its response (10_state.md R34). -/
theorem queueOk_append_of_mayAccept {s : State} {q : Port} {w : RspWord} (h : s.queueOk q.rspq)
    (hmay : mayAccept s q = true) (hw : legalResponse w = true) : s.queueOk (q.rspq ++ [w]) := by
  obtain ⟨hready, hroom⟩ := Bool.and_eq_true_iff.1 hmay
  refine ⟨fun hr => by simp [hready] at hr, fun m hm => ?_, fun v hv => ?_⟩
  · simpa [hasRoom, hm, Nat.succ_le_iff] using hroom
  · obtain hv | rfl := (List.mem_append.1 hv).imp_right List.mem_singleton.1
    · exact h.legal v hv
    · exact hw

/-- Every answer has one of the two forms of 30_encoding.md R64. -/
theorem legalResponse_answerOf (rd : TableReader) (d : Decoded) : legalResponse (answerOf rd d) = true := by
  cases d with
  | legal i => simp [legalResponse, answerOf]
  | illegal op => simp [legalResponse, answerOf]

/-- Only the queues of the ports matter to the invariant, so a change of one port need only leave a good queue. -/
theorem inv_modPort {s : State} {p : Nat} {f : Port → Port} (h : s.Inv)
    (hf : ∀ q, s.ports[p]? = some q → s.queueOk (f q).rspq) : (modPort p f s).Inv := by
  have hqueue : ∀ q ∈ (modPort p f s).ports, s.queueOk q.rspq := by
    intro q hq
    obtain hold | ⟨r, hr, rfl⟩ := mem_modify_port hq
    · exact queueOk_of_inv h hold
    · exact hf r hr
  exact { h with
    ports_count := by simpa using h.ports_count
    unready_empty := fun hr q hq => (hqueue q hq).empty hr
    queues_bounded := fun q hq => (hqueue q hq).bounded
    queues_legal := fun q hq => (hqueue q hq).legal }

theorem inv_dropTurn {s : State} (h : s.Inv) : (dropTurn s).Inv :=
  { h with turns_wf := fun t ht => h.turns_wf t (List.mem_of_mem_tail ht) }

theorem inv_atPort {s : State} {p : Nat} (h : s.Inv) (hp : p < s.ports.length) : (atPort p s).Inv :=
  { h with cur_exists := h.ports_count ▸ hp }

theorem inv_resetOn {s : State} (h : s.Inv) : (resetOn s).Inv := by
  have hqueue : ∀ q ∈ (resetOn s).ports, (resetOn s).queueOk q.rspq := by
    intro q hq
    obtain ⟨r, -, rfl⟩ := List.mem_map.1 hq
    exact queueOk_nil _
  exact { h with
    ports_count := by simpa using h.ports_count
    mem_wf := Memory.clear_wf s.mem
    ready_built := fun hr => by simp at hr
    reset_unready := fun _ => rfl
    reset_unbuilt := fun _ => rfl
    unready_empty := fun hr q hq => (hqueue q hq).empty hr
    queues_bounded := fun q hq => (hqueue q hq).bounded
    queues_legal := fun q hq => (hqueue q hq).legal }

theorem inv_resetOff {s : State} (h : s.Inv) : (resetOff s).Inv :=
  { h with
    reset_unready := fun hr => by simp at hr
    reset_unbuilt := fun hr => by simp at hr }

theorem inv_buildTurn {s : State} (h : s.Inv) : (buildTurn s).Inv := by
  unfold buildTurn
  split_ifs with hidle hcomplete
  · exact h
  · have hreset : s.resetAsserted ≠ true := fun hr => hidle (by simp [hr])
    exact { h with
      ready_built := fun _ => hcomplete
      reset_unready := fun hr => absurd hr hreset
      unready_empty := fun hr => by simp at hr }
  · have hreset : s.resetAsserted ≠ true := fun hr => hidle (by simp [hr])
    have hready : s.ready ≠ true := fun hr => hidle (by simp [hr])
    exact { h with
      mem_wf := Memory.visit_wf s.mem h.mem_wf
      ready_built := fun hr => absurd hr hready
      reset_unbuilt := fun hr => absurd hr hreset }

/-- An acceptance with its answer is one change of the port. -/
theorem accept_atPort_answered (p : Nat) (s : State) (w : RspWord) :
    (accept p (atPort p s)).answered w = modPort p (Port.push w ∘ Port.acceptWord) (atPort p s) := by
  simp only [State.answered, accept, modPort, atPort, List.modify_modify_eq]

theorem inv_serve {s t : State} {p : Nat} (h : s.Inv) (hserve : serve p s = .next t) : t.Inv := by
  obtain ⟨q, hq, hcase⟩ := serve_next hserve
  have hat : (atPort p s).Inv := inv_atPort h (List.getElem?_eq_some_iff.1 hq).1
  obtain ⟨rfl, -⟩ | ⟨w, ws, -, hmay, rfl⟩ := hcase
  · exact hat
  · rw [accept_atPort_answered]
    refine inv_modPort hat fun r hr => ?_
    obtain rfl : q = r := Option.some.inj (hq.symm.trans hr)
    have hok : (atPort p s).queueOk q.rspq := queueOk_of_inv hat (List.mem_of_getElem? hr)
    exact queueOk_append_of_mayAccept hok hmay (legalResponse_answerOf _ _)

/-- The invariant holds along every run: each of the six turns keeps it. -/
theorem step_keeps_inv {s t : State} (hinv : s.Inv) (h : step s = .next t) : t.Inv := by
  have hdrop : (dropTurn s).Inv := inv_dropTurn hinv
  obtain ⟨p, w, -, -, rfl⟩ | ⟨p, -, -, rfl⟩ | ⟨-, rfl⟩ | ⟨-, rfl⟩ | ⟨-, rfl⟩ | ⟨p, -, hserve⟩ := step_next h
  · exact inv_modPort hdrop fun q hq => queueOk_of_inv (q := q) hdrop (List.mem_of_getElem? hq)
  · refine inv_modPort hdrop fun q hq => ?_
    rw [Port.takeOldest_rspq]
    exact queueOk_tail (queueOk_of_inv hdrop (List.mem_of_getElem? hq))
  · exact inv_resetOn hdrop
  · exact inv_resetOff hdrop
  · exact inv_buildTurn hdrop
  · exact inv_serve hdrop hserve

end Sys2Proof.Machine
end

section
/-! SUPPORT. What a run keeps, the turns of a run, and the statement of 70_reset_and_hazards.md R190. -/

namespace Sys2Proof.Machine

/-- A run that goes on for one more step makes that step first. -/
theorem run_succ_next {M : Host.Core} {k : Nat} {s t : M.State} (h : M.run (k + 1) s = .next t) :
    ∃ u, M.step s = .next u ∧ M.run k u = .next t := by
  unfold Host.Core.run at h
  split at h
  · exact ⟨_, ‹_›, h⟩
  · cases h
  · cases h

/-- What every step keeps, every run keeps. -/
theorem run_keeps {M : Host.Core} {P : M.State → Prop} (hstep : ∀ s t, P s → M.step s = .next t → P t) {k : Nat}
    {s t : M.State} (hs : P s) (hrun : M.run k s = .next t) : P t := by
  induction k generalizing s with
  | zero =>
    cases hrun
    exact hs
  | succ k ih =>
    obtain ⟨u, hu, hrest⟩ := run_succ_next hrun
    exact ih (hstep s u hs hu) hrest

/-- A step uses up the turn that it makes, and lists no new one. -/
theorem step_turns {s t : State} (h : step s = .next t) : t.turns = s.turns.tail := by
  obtain ⟨p, w, -, -, rfl⟩ | ⟨p, -, -, rfl⟩ | ⟨-, rfl⟩ | ⟨-, rfl⟩ | ⟨-, rfl⟩ | ⟨p, -, hserve⟩ := step_next h
  · simp
  · simp
  · simp
  · simp
  · simp
  · obtain ⟨q, -, ⟨rfl, -⟩ | ⟨w, ws, -, -, rfl⟩⟩ := serve_next hserve
    · simp
    · simp

/-- The turn is no reset and offers nothing on port `p` (70_reset_and_hazards.md R190). -/
def quietOn (p : Nat) (x : Turn) : Prop := x ≠ .assertReset ∧ offersOn p x = []

/-- The turns that come of themselves are BUILD's and the ports'. -/
theorem quietOn_defaultTurn (p : Nat) (s : State) : quietOn p (defaultTurn s) := by
  unfold defaultTurn
  split
  · exact ⟨nofun, rfl⟩
  · exact ⟨nofun, rfl⟩

theorem quietOn_nextTurn {p : Nat} {s : State} (h : ∀ x ∈ s.turns, quietOn p x) :
    quietOn p (nextTurn s) := by
  unfold nextTurn
  split
  · exact quietOn_defaultTurn p s
  · exact h _ (by simp [*])

/-- A state in a run of port `p` with no reset and no new offer (70_reset_and_hazards.md R190): the answers given and
still to give on the port are `answers`, under the parameters `c`. -/
structure State.Answering (c : Config) (p : Nat) (answers : List RspWord) (s : State) : Prop where
  inv : s.Inv
  cfg : s.cfg = c
  quiet : ∀ x ∈ s.turns, quietOn p x
  port : ∃ q, s.ports[p]? = some q ∧ q.transcript c = answers

theorem step_keeps_answering {c : Config} {p : Nat} {answers : List RspWord} (s t : State)
    (hs : s.Answering c p answers) (h : step s = .next t) : t.Answering c p answers := by
  obtain ⟨hinv, rfl, hquiet, q, hq, rfl⟩ := hs
  obtain ⟨hreset, hoffers⟩ := quietOn_nextTurn hquiet
  obtain ⟨q', hq', htranscript⟩ := answersAreNeverLostOrReordered s t p q hinv hreset h hq
  rw [hoffers, List.map_nil, List.append_nil, step_keeps_cfg h] at htranscript
  exact ⟨step_keeps_inv hinv h, step_keeps_cfg h,
    fun x hx => hquiet x (List.mem_of_mem_tail (step_turns h ▸ hx)), q', hq', htranscript⟩

/-- Settles O54: the run keeps the port's transcript, which is all to be answered at the start and all taken at the
end. -/
theorem runAnswersTheCommandList : Obligations.RunAnswersTheCommandList := by
  unfold Obligations.RunAnswersTheCommandList
  intro k s t p q q' hinv hquiet hrun hq hrspq htaken hq' hoffered' hrspq'
  have hs : s.Answering s.cfg p (q.transcript s.cfg) := ⟨hinv, rfl, hquiet, q, hq, rfl⟩
  obtain ⟨r, hr, htranscript⟩ := (run_keeps (M := Sys2Proof.core) step_keeps_answering hs hrun).port
  obtain rfl : q' = r := Option.some.inj (hq'.symm.trans hr)
  simpa [Port.transcript, hrspq, htaken, hoffered', hrspq'] using htranscript

end Sys2Proof.Machine
end

section
/-! SUPPORT. The decoder and the encoder of 30_encoding.md R61 and R62 undo each other, on words and on bytes, and the
statements of R61, R69 and of 95_test_vectors.md. -/

namespace Sys2Proof

/-! ### Decoding a word -/

/-- The opcode map read at a command's own opcode gives the command back. -/
theorem decodeOp_opcode (i : Instr) : decodeOp i.opcode i.board = .legal i := by
  cases i with
  | moveUp b => exact (Laws.Opcode.moveUp b).1
  | moveDown b => exact (Laws.Opcode.moveDown b).1
  | moveLeft b => exact (Laws.Opcode.moveLeft b).1
  | moveRight b => exact (Laws.Opcode.moveRight b).1
  | eval b => exact (Laws.Opcode.eval b).1
  | xpose b => exact (Laws.Opcode.xpose b).1

/-- All that the opcode map can give: the command with the opcode and the board, or the illegal opcode. -/
theorem decodeOp_cases (op : Opcode) (b : Board) :
    (∃ i : Instr, decodeOp op b = .legal i ∧ i.opcode = op ∧ i.board = b) ∨ decodeOp op b = .illegal op := by
  unfold decodeOp
  split_ifs with h0 h1 h2 h3 h4 h5
  · exact .inl ⟨_, rfl, h0.symm, rfl⟩
  · exact .inl ⟨_, rfl, h1.symm, rfl⟩
  · exact .inl ⟨_, rfl, h2.symm, rfl⟩
  · exact .inl ⟨_, rfl, h3.symm, rfl⟩
  · exact .inl ⟨_, rfl, h4.symm, rfl⟩
  · exact .inl ⟨_, rfl, h5.symm, rfl⟩
  · exact .inr rfl

theorem decodeOp_eq_legal_iff {op : Opcode} {b : Board} {i : Instr} :
    decodeOp op b = .legal i ↔ i.opcode = op ∧ i.board = b := by
  constructor
  · intro h
    obtain ⟨j, hj, hop, hb⟩ | hillegal := decodeOp_cases op b
    · cases hj.symm.trans h
      exact ⟨hop, hb⟩
    · cases hillegal.symm.trans h
  · rintro ⟨rfl, rfl⟩
    exact decodeOp_opcode i

theorem decodeOp_eq_illegal {op op' : Opcode} {b : Board} (h : decodeOp op b = .illegal op') (b' : Board) :
    decodeOp op b' = .illegal op' := by
  have hge : 6 ≤ op.toNat := by
    by_contra hlt
    obtain ⟨i, hi⟩ := decodeOp_of_le (op := op) (by omega) b
    cases hi.symm.trans h
  rw [decodeOp_of_ge hge] at h ⊢
  exact h

/-- A word decodes to a command when it is the one that the encoder gives. -/
theorem decodeWord_eq_legal_iff {w : CmdWord} {i : Instr} : decodeWord w = .legal i ↔ w = encode i := by
  rw [decodeWord, decodeOp_eq_legal_iff]
  constructor
  · rintro ⟨hop, hb⟩
    rw [encode, hop, hb, cmdWord_fields]
  · rintro rfl
    simp [encode]

/-- Settles O2: the opcode map branches on the opcode alone, and the board is only carried along. -/
theorem decodingReadsOnlyTheOpcode : Obligations.DecodingReadsOnlyTheOpcode := by
  unfold Obligations.DecodingReadsOnlyTheOpcode
  intro w v hop
  refine ⟨fun i hi => ?_, fun op hillegal => ?_⟩
  · obtain ⟨hiop, hib⟩ := decodeOp_eq_legal_iff.1 hi
    obtain ⟨j, hj, hjop, hjb⟩ | hillegal := decodeOp_cases (cmdOp v) (cmdBoard v)
    · exact ⟨j, hj, by rw [hjop, hiop, hop], hib, hjb⟩
    · rw [← hop] at hillegal
      cases (decodeOp_eq_illegal hillegal (cmdBoard w)).symm.trans hi
  · rw [decodeWord, ← hop]
    exact decodeOp_eq_illegal hillegal _

/-- Settles O4: each word is written out, and the opcode map is read at its low byte. -/
theorem sampleWordsDecode : Obligations.SampleWordsDecode := by
  unfold Obligations.SampleWordsDecode
  decide

/-! ### Decoding bytes -/

theorem bytesToNat_lt (bs : List Byte) : bytesToNat bs < 256 ^ bs.length := by
  induction bs with
  | nil => simp [bytesToNat]
  | cons b bs ih =>
    rw [bytesToNat, List.length_cons, Nat.pow_succ]
    have hb : b.toNat < 256 := b.isLt
    omega

/-- Byte strings of one length are the digits of their numbers. -/
theorem eq_of_bytesToNat_eq {bs cs : List Byte} (hlen : bs.length = cs.length) (h : bytesToNat bs = bytesToNat cs) :
    bs = cs := by
  induction bs generalizing cs with
  | nil => exact (List.eq_nil_of_length_eq_zero hlen.symm).symm
  | cons b bs ih =>
    obtain _ | ⟨c, cs⟩ := cs
    · simp at hlen
    · rw [bytesToNat, bytesToNat] at h
      have hb : b.toNat < 256 := b.isLt
      have hc : c.toNat < 256 := c.isLt
      rw [BitVec.eq_of_toNat_eq (show b.toNat = c.toNat by omega), ih (by simpa using hlen) (by omega)]

/-- The bytes that carry a word are the word's nine bytes. -/
theorem bytesToWord_eq_ok_iff {bs : List Byte} {w : BitVec 72} : bytesToWord bs = .ok w ↔ bs = wordToBytes w := by
  constructor
  · intro h
    unfold bytesToWord at h
    split at h
    · rename_i hlen
      cases h
      have hlt : bytesToNat bs < 2 ^ 72 := by simpa [hlen] using bytesToNat_lt bs
      refine eq_of_bytesToNat_eq (by simp [hlen]) ?_
      rw [bytesToNat_wordToBytes, BitVec.toNat_ofNat, Nat.mod_eq_of_lt hlt]
    · cases h
  · rintro rfl
    exact bytesToWord_wordToBytes w

theorem decodeBytes_eq_ok_iff {bs : List Byte} {d : Decoded} :
    decodeBytes bs = .ok d ↔ ∃ w, bs = wordToBytes w ∧ decodeWord w = d := by
  simp only [← bytesToWord_eq_ok_iff]
  unfold decodeBytes
  cases bytesToWord bs <;> simp

/-- Settles O1: nine bytes are one word, and a word decodes to a command when it is that command's. -/
theorem decodingInvertsEncoding : Obligations.DecodingInvertsEncoding := by
  unfold Obligations.DecodingInvertsEncoding
  intro i bs _
  rw [decodeBytes_eq_ok_iff]
  simp only [decodeWord_eq_legal_iff, exists_eq_right, encodeBytes]

end Sys2Proof
end

section
/-! SUPPORT. The statements that every step keeps the invariant and that the reset state meets it (70_reset_and_hazards.md
R181, R182). -/

namespace Sys2Proof.Machine

/-- Settles O51: each of the six turns keeps the invariant. -/
theorem stepKeepsTheInvariant : Obligations.StepKeepsTheInvariant := by
  unfold Obligations.StepKeepsTheInvariant
  exact fun s t => step_keeps_inv

/-- At reset there is one port, and nothing waits on it. -/
theorem rspq_of_mem_reset_ports {q : Port} (h : q ∈ State.reset.ports) : q.rspq = [] := by
  rw [State.reset, List.mem_singleton] at h
  rw [h, Port.idle]

/-- Settles O50: BUILD has not begun, no reset is asserted, and the one port's queue is empty. -/
theorem resetStateMeetsTheInvariant : Obligations.ResetStateMeetsTheInvariant where
  cfg_wf := test_config_wf_default
  ports_count := rfl
  cur_exists := by decide
  mem_wf := Memory.reset_wf
  ready_built := nofun
  reset_unready := nofun
  reset_unbuilt := nofun
  unready_empty := fun _ _ hq => rspq_of_mem_reset_ports hq
  queues_bounded := fun q hq m _ => by simp [rspq_of_mem_reset_ports hq]
  queues_legal := fun q hq w hw => by simp [rspq_of_mem_reset_ports hq] at hw
  turns_wf := nofun

theorem Memory.not_written_of_visited_eq_zero {m : Memory} (h : m.visited = 0) (t : Table) (p : Pattern) :
    m.written t p = false := by
  simp [Memory.written, h]

/-- Settles O38: the fields of the reset state are the values of R181. -/
theorem resetStateIsUnready : Obligations.ResetStateIsUnready := by
  unfold Obligations.ResetStateIsUnready
  exact ⟨rfl, rfl, fun q hq => rspq_of_mem_reset_ports hq, Memory.not_written_of_visited_eq_zero rfl⟩

end Sys2Proof.Machine
end

section
/-! SUPPORT. What a command answers and what it leaves unchanged, and the statements of 30_encoding.md R66 and 20_memory.md
R46. -/

namespace Sys2Proof.Machine

/-- With built tables a word is answered with the response that the word and the configuration fix (30_encoding.md
R66). -/
theorem answerOf_of_built {s : State} (h : s.built) (w : CmdWord) :
    answerOf (memRead s) (decodeWord w) = response s.cfg w := by
  rw [memRead_of_built h, response]

/-- Settles O7: the one answer to a word is read from the tables, which are built. -/
theorem responseDependsOnTheWordAlone : Obligations.ResponseDependsOnTheWordAlone := by
  unfold Obligations.ResponseDependsOnTheWordAlone
  intro w s hbuilt hcur
  rw [execWord_eq, if_pos hcur, answerOf_of_built hbuilt]

/-- Settles O37: a command's meaning is one response on the current port. -/
theorem commandsOnlyAppendOneResponse : Obligations.CommandsOnlyAppendOneResponse := by
  unfold Obligations.CommandsOnlyAppendOneResponse
  intro i s t h
  rw [exec_eq] at h
  obtain ⟨-, rfl⟩ := respond_next h
  exact ⟨rfl, rfl, rfl, rfl, rfl, rfl, by simp, fun p hp => getElem?_modify_ne hp,
    fun q hq => ⟨_, getElem?_modify_self hq⟩, fun tb p => rfl⟩

end Sys2Proof.Machine
end

section
/-! SUPPORT. The turns of reset, of BUILD and of the host, and the statements of 10_state.md R30, R31 and
70_reset_and_hazards.md R180 to R192 that speak of one step. -/

namespace Sys2Proof.Machine

/-! ### What no turn changes -/

theorem serve_keeps_ports_length {p : Nat} {s t : State} (h : serve p s = .next t) :
    t.ports.length = s.ports.length := by
  obtain ⟨q, -, ⟨rfl, -⟩ | ⟨w, ws, -, -, rfl⟩⟩ := serve_next h
  · rfl
  · simp

/-- Settles O44: every turn changes ports one by one, and no turn writes the configuration. -/
theorem parametersNeverChange : Obligations.ParametersNeverChange := by
  unfold Obligations.ParametersNeverChange
  intro s t h
  refine ⟨step_keeps_cfg h, ?_⟩
  obtain ⟨p, w, -, -, rfl⟩ | ⟨p, -, -, rfl⟩ | ⟨-, rfl⟩ | ⟨-, rfl⟩ | ⟨-, rfl⟩ | ⟨p, -, hserve⟩ := step_next h
  · simp
  · simp
  · simp
  · simp
  · simp
  · simpa using serve_keeps_ports_length hserve

/-! ### Reset -/

/-- Settles O39: the assertion of reset clears the queues, `ready` and the count of visits, and nothing else. -/
theorem resetDropsWaitingResponses : Obligations.ResetDropsWaitingResponses := by
  unfold Obligations.ResetDropsWaitingResponses
  intro s hn
  refine ⟨resetOn (dropTurn s), step_of_turn hn, rfl, rfl, rfl, by simp, fun p q hq => ?_,
    Memory.not_written_of_visited_eq_zero rfl⟩
  simp [hq, Port.dropResponses]

/-! ### BUILD -/

theorem buildTurn_of_complete {s : State} (hreset : s.resetAsserted = false) (hready : s.ready = false)
    (h : s.mem.complete = true) : buildTurn s = { s with ready := true } := by
  simp [buildTurn, hreset, hready, h]

theorem buildTurn_of_not_complete {s : State} (hreset : s.resetAsserted = false) (hready : s.ready = false)
    (h : s.mem.complete = false) : buildTurn s = { s with mem := s.mem.visit } := by
  simp [buildTurn, hreset, hready, h]

theorem Memory.complete_eq_false_iff (m : Memory) : m.complete = false ↔ m.visited < 65536 := by
  rw [← Bool.not_eq_true, Memory.complete_iff, not_le]

/-- Settles O57: the release changes the reset level alone, and under the invariant nothing is written then, so that
BUILD's first turn is its first visit. -/
theorem releaseOfResetStartsBuild : Obligations.ReleaseOfResetStartsBuild := by
  unfold Obligations.ReleaseOfResetStartsBuild
  intro s hn
  refine ⟨resetOff (dropTurn s), step_of_turn hn, rfl, rfl, rfl, rfl, rfl, rfl, rfl, fun tb p => rfl,
    fun hinv hasserted => ?_⟩
  have hready : s.ready = false := hinv.reset_unready hasserted
  have hvisited : s.mem.visited = 0 := hinv.reset_unbuilt hasserted
  refine ⟨hready, hinv.unready_empty hready, Memory.not_written_of_visited_eq_zero hvisited, fun hturns => ?_,
    fun hbuild => ⟨_, step_of_turn hbuild, ?_⟩⟩
  · rw [nextTurn, hturns]
    simp [defaultTurn, hready]
  · have hpending : s.mem.complete = false := (Memory.complete_eq_false_iff _).2 (by simp [hvisited])
    rw [buildTurn_of_not_complete (by simp) (by simpa using hready) (by simpa using hpending)]
    simp [Memory.visit_visited, hvisited]

/-- A visit writes the locations that belong to its pattern, and keeps the others written or not. -/
theorem Memory.written_visit {m : Memory} {p : Pattern} (h : m.visited = p.toNat) (t : Table) (q : Pattern) :
    m.visit.written t q = (m.written t q || decide (writingVisit t q = p)) := by
  have hlt : p.toNat < 65536 := p.isLt
  rw [Memory.written, Memory.written, Memory.visit_visited m (by omega), h, ← Bool.decide_or]
  refine decide_eq_decide.2 ?_
  rw [← BitVec.toNat_inj]
  omega

/-- What every location reads as after the visit of pattern `p` (40_table_generator.md R80). -/
theorem Memory.read_visit {m : Memory} {p : Pattern} (h : m.visited = p.toNat) (c : Config) (t : Table) (q : Pattern) :
    m.visit.read c t q = if writingVisit t q = p then tableEntry c t q else m.read c t q := by
  rw [Memory.read, Memory.read, Memory.written_visit h, Memory.visit_epoch]
  by_cases hq : writingVisit t q = p
  · simp [hq]
  · simp [hq]

/-- Settles O40: BUILD's turn is one visit, after which the locations of its pattern read as built. -/
theorem buildVisitWritesFiveLocations : Obligations.BuildVisitWritesFiveLocations := by
  unfold Obligations.BuildVisitWritesFiveLocations
  intro s p hn hreset hready hvisited
  have hlt : p.toNat < 65536 := p.isLt
  have hturn : buildTurn (dropTurn s) = { dropTurn s with mem := s.mem.visit } :=
    buildTurn_of_not_complete hreset hready ((Memory.complete_eq_false_iff _).2 (by simp; omega))
  have hread (tb : Table) (q : Pattern) :
      memRead { dropTurn s with mem := s.mem.visit } tb q =
        if writingVisit tb q = p then tableEntry s.cfg tb q else memRead s tb q :=
    Memory.read_visit hvisited s.cfg tb q
  have hwritten {tb : Table} {q : Pattern} (hq : writingVisit tb q = p) :
      memRead { dropTurn s with mem := s.mem.visit } tb q = tableEntry s.cfg tb q := by rw [hread, if_pos hq]
  refine ⟨_, (step_of_turn hn).trans (congrArg Host.Outcome.next hturn), hready, rfl, rfl, hwritten rfl,
    hwritten (rev_rev p), hwritten rfl, hwritten (rev_rev p), hwritten rfl, fun tb q hq => ?_⟩
  rw [hread, if_neg hq]

/-! ### `ready` -/

theorem serve_keeps_ready {p : Nat} {s t : State} (h : serve p s = .next t) : t.ready = s.ready := by
  obtain ⟨q, -, ⟨rfl, -⟩ | ⟨w, ws, -, -, rfl⟩⟩ := serve_next h
  · rfl
  · rfl

/-- Only a reset and BUILD's turn touch `ready` (10_state.md R31). -/
theorem step_keeps_ready {s t : State} (h : step s = .next t) (hreset : nextTurn s ≠ .assertReset)
    (hbuild : nextTurn s ≠ .build) : t.ready = s.ready := by
  obtain ⟨p, w, -, -, rfl⟩ | ⟨p, -, -, rfl⟩ | ⟨hn, -⟩ | ⟨-, rfl⟩ | ⟨hn, -⟩ | ⟨p, -, hserve⟩ := step_next h
  · rfl
  · rfl
  · exact absurd hn hreset
  · rfl
  · exact absurd hn hbuild
  · simpa using serve_keeps_ready hserve

/-- A BUILD turn that makes the block ready finds every location written. -/
theorem complete_of_buildTurn_ready {s : State} (hready : s.ready = false) (h : (buildTurn s).ready = true) :
    s.mem.complete = true := by
  unfold buildTurn at h
  split_ifs at h with hidle hcomplete
  · simp [hready] at h
  · exact hcomplete
  · simp [hready] at h

/-- Settles O42: BUILD's turn leaves a ready block as it is, and makes another ready only at its end. -/
theorem readyFallsOnlyAtReset : Obligations.ReadyFallsOnlyAtReset := by
  unfold Obligations.ReadyFallsOnlyAtReset
  intro s t h
  by_cases hbuild : nextTurn s = .build
  · obtain rfl : buildTurn (dropTurn s) = t := Host.Outcome.next.inj ((step_of_turn hbuild).symm.trans h)
    refine ⟨fun hready _ => ?_, fun hready hready' => ⟨hbuild, complete_of_buildTurn_ready (s := dropTurn s) hready hready'⟩⟩
    rw [buildTurn_of_ready (by simpa using hready), dropTurn_ready, hready]
  · refine ⟨fun hready hreset => (step_keeps_ready h hreset hbuild).trans hready, fun hready hready' => ?_⟩
    by_cases hreset : nextTurn s = .assertReset
    · obtain rfl : resetOn (dropTurn s) = t := Host.Outcome.next.inj ((step_of_turn hreset).symm.trans h)
      simp at hready'
    · rw [step_keeps_ready h hreset hbuild, hready] at hready'
      cases hready'

end Sys2Proof.Machine
end

section
/-! SUPPORT. What a port's turn and the host make of a port, and the statements of 10_state.md R34, 30_encoding.md R66,
60_exceptions.md R150 and R161, and 70_reset_and_hazards.md R185 and R187. -/

namespace Sys2Proof.Machine

/-! ### A port's turn -/

theorem hasRoom_iff (c : Config) (n : Nat) : hasRoom c n = true ↔ ∀ m, c.maxOutstanding = some m → n < m := by
  cases h : c.maxOutstanding <;> simp [hasRoom, h]

theorem mayAccept_iff (s : State) (q : Port) :
    mayAccept s q = true ↔ s.ready = true ∧ ∀ m, s.cfg.maxOutstanding = some m → q.rspq.length < m := by
  rw [mayAccept, Bool.and_eq_true, hasRoom_iff]

/-- What a port becomes in its turn: the word on offer is answered, or held (70_reset_and_hazards.md R185). -/
def Port.served (s : State) (q : Port) : Port :=
  match q.offered with
  | [] => q
  | w :: _ => if mayAccept s q then q.acceptWord.push (answerOf (memRead s) (decodeWord w)) else q

theorem Port.served_of_held {s : State} {q : Port} (h : q.offered = [] ∨ mayAccept s q = false) : q.served s = q := by
  unfold Port.served
  obtain ho | hmay := h
  · rw [ho]
  · split
    · rfl
    · simp [hmay]

/-- The word on offer leaves the command channel and its response joins the queue (10_state.md R34). -/
theorem Port.served_of_mayAccept {s : State} {q : Port} {w : CmdWord} {ws : List CmdWord} (hbuilt : s.built)
    (ho : q.offered = w :: ws) (h : mayAccept s q = true) :
    q.served s = ⟨ws, q.rspq ++ [response s.cfg w], q.taken⟩ := by
  simp [Port.served, Port.push, Port.acceptWord, ho, h, answerOf_of_built hbuilt]

/-- Two changes of port `p` that agree on that port are one. -/
theorem modPort_congr {s : State} {p : Nat} {f g : Port → Port} (h : ∀ q, s.ports[p]? = some q → f q = g q) :
    modPort p f s = modPort p g s := by
  have hports : s.ports.modify p f = s.ports.modify p g := by
    apply List.ext_getElem?
    intro j
    by_cases hj : p = j
    · subst hj
      cases hq : s.ports[p]? with
      | none => simp [hq]
      | some q => simp [hq, h q hq]
    · simp [hj]
  rw [modPort, hports, modPort]

theorem modPort_id (p : Nat) (s : State) : modPort p id s = s := by simp [modPort]

/-- A port that accepts nothing keeps what it holds. -/
theorem modPort_served_of_held {s t : State} {p : Nat} {q : Port} (hq : t.ports[p]? = some q)
    (h : q.offered = [] ∨ mayAccept s q = false) : modPort p (Port.served s) t = t := by
  have hid : modPort p (Port.served s) t = modPort p id t := by
    refine modPort_congr fun r hr => ?_
    obtain rfl : q = r := Option.some.inj (hq.symm.trans hr)
    exact Port.served_of_held h
  rw [hid, modPort_id]

/-- All that the turn of port `p` can do: the port becomes current and is served. -/
theorem serve_eq {s : State} {p : Nat} (hp : p < s.ports.length) :
    serve p s = .next (modPort p (Port.served s) (atPort p s)) := by
  obtain ⟨t, ht⟩ := serve_goes_on p s hp
  rw [ht]
  obtain ⟨q, hq, ⟨rfl, hheld⟩ | ⟨w, ws, ho, hmay, rfl⟩⟩ := serve_next ht
  · rw [modPort_served_of_held (t := atPort p s) hq hheld]
  · rw [accept_atPort_answered]
    refine congrArg _ (modPort_congr fun r hr => ?_)
    obtain rfl : q = r := Option.some.inj (hq.symm.trans hr)
    simp [Port.served, ho, hmay]

theorem serve_eq_next {s t : State} {p : Nat} (h : serve p s = .next t) :
    t = modPort p (Port.served s) (atPort p s) := by
  obtain ⟨q, hq, -⟩ := serve_next h
  rw [serve_eq (List.getElem?_eq_some_iff.1 hq).1] at h
  exact (Host.Outcome.next.inj h).symm

theorem step_serve {s : State} {p : Nat} (hn : nextTurn s = .serve p) (hp : p < s.ports.length) :
    step s = .next (modPort p (Port.served s) (atPort p (dropTurn s))) :=
  (step_of_turn hn).trans (serve_eq hp)

/-- Settles O45: without `ready`, or without room, the port is held. -/
theorem portsHoldCommandsTheyCannotAccept : Obligations.PortsHoldCommandsTheyCannotAccept := by
  unfold Obligations.PortsHoldCommandsTheyCannotAccept
  intro s p q hn hq hcannot
  have hmay : mayAccept s q = false := by
    rw [← Bool.not_eq_true, mayAccept_iff]
    rintro ⟨hready, hroom⟩
    obtain hunready | ⟨m, hm, hfull⟩ := hcannot
    · simp [hready] at hunready
    · exact absurd (hroom m hm) (by omega)
  have hheld : modPort p (Port.served s) (atPort p (dropTurn s)) = atPort p (dropTurn s) :=
    modPort_served_of_held hq (.inr hmay)
  have hstep := step_serve hn (List.getElem?_eq_some_iff.1 hq).1
  rw [hheld] at hstep
  exact ⟨_, hstep, rfl, rfl, rfl, rfl, rfl, rfl, rfl⟩

/-- Settles O46: with `ready` and room, the port's word is answered. -/
theorem acceptedCommandsAreAnsweredInOrder : Obligations.AcceptedCommandsAreAnsweredInOrder := by
  unfold Obligations.AcceptedCommandsAreAnsweredInOrder
  intro s p q w ws hn hq ho hready hbuilt hroom
  refine ⟨_, step_serve hn (List.getElem?_eq_some_iff.1 hq).1, ?_, fun p' hp' => getElem?_modify_ne hp'⟩
  rw [← Port.served_of_mayAccept hbuilt ho ((mayAccept_iff s q).2 ⟨hready, hroom⟩)]
  exact getElem?_modify_self hq

/-! ### The command that runs -/

theorem execWord_of_legal {w : CmdWord} {i : Instr} (h : decodeWord w = .legal i) (s : State) :
    execWord w s = exec i s := by
  rw [execWord, h]

theorem serve_of_mayAccept {s : State} {p : Nat} {q : Port} {w : CmdWord} {ws : List CmdWord}
    (hq : s.ports[p]? = some q) (ho : q.offered = w :: ws) (hmay : mayAccept s q = true) :
    serve p s = execWord w (accept p (atPort p s)) := by
  simp [serve, hq, ho, hmay]

/-- Settles O48: the turn accepts the word, and the word's execution is that of its command. -/
theorem stepRunsTheDecodedCommand : Obligations.StepRunsTheDecodedCommand := by
  unfold Obligations.StepRunsTheDecodedCommand
  intro s p q w ws i hn hq ho hmay hi
  rw [step_of_turn hn, ← execWord_of_legal hi]
  exact serve_of_mayAccept hq ho hmay

/-- A word of the opcode table is serialised and read back before it is decoded. -/
theorem decodeTableWord_eq_some_iff {nbits w : Nat} {i : Instr} :
    decodeTableWord nbits w = some i ↔ decodeWord (tableWord nbits w) = .legal i := by
  have hbytes : decodeBytes (wordToBytes (tableWord nbits w)) = .ok (decodeWord (tableWord nbits w)) := by
    simp [decodeBytes]
  unfold decodeTableWord
  rw [hbytes]
  cases decodeWord (tableWord nbits w) with
  | legal j => simp
  | illegal op => exact ⟨nofun, nofun⟩

/-- An empty queue has room in a well-formed configuration (00_scope.md R9). -/
theorem hasRoom_zero {c : Config} (h : c.wf = true) : hasRoom c 0 = true := by
  unfold Config.wf at h
  rw [hasRoom_iff]
  intro m hm
  simp only [hm, Bool.and_eq_true, decide_eq_true_eq] at h
  exact h.2

/-- The port on which a word is placed has room for its response. -/
theorem mayAccept_primed {s : State} (hwf : s.cfg.wf = true) (w : CmdWord) (q : Port) :
    mayAccept (primeWord w s) (q.primed s.cfg w) = true := by
  rw [mayAccept, primeWord_ready, primeWord_cfg, Bool.true_and, Port.primed]
  dsimp only
  split_ifs with hroom
  · exact hroom
  · exact hasRoom_zero hwf

/-- Settles O49: the placed word is on offer first, on a port with room whose turn it is. -/
theorem placedWordRunsNext : Obligations.PlacedWordRunsNext := by
  unfold Obligations.PlacedWordRunsNext
  intro s nbits w i hwf hcur hi
  have hq : s.ports[s.cur]? = some s.ports[s.cur] := List.getElem?_eq_getElem hcur
  have hprimed := getElem?_modify_self (f := Port.primed s.cfg (tableWord nbits w)) hq
  exact stepRunsTheDecodedCommand (s.withFetchWord nbits w) s.cur _ _ _ i rfl hprimed rfl (mayAccept_primed hwf _ _)
    (decodeTableWord_eq_some_iff.1 hi)

/-! ### The host's take -/

theorem step_take {s : State} {p : Nat} (hn : nextTurn s = .take p) (hp : p < s.ports.length) :
    step s = .next (modPort p Port.takeOldest (dropTurn s)) :=
  (step_of_turn hn).trans (if_pos hp)

/-- Settles O47: the head of the queue moves to the list of responses taken. -/
theorem hostTakesTheOldestResponse : Obligations.HostTakesTheOldestResponse := by
  unfold Obligations.HostTakesTheOldestResponse
  intro s p q hn hq
  have hport : (s.ports.modify p Port.takeOldest)[p]? = some q.takeOldest := getElem?_modify_self hq
  refine ⟨_, step_take hn (List.getElem?_eq_some_iff.1 hq).1, fun p' hp' => getElem?_modify_ne hp',
    fun r rs hrs => hport.trans ?_, fun hnil => hport.trans ?_⟩
  · rw [Port.takeOldest, hrs]
  · rw [Port.takeOldest, hnil]

/-! ### The machine goes on -/

/-- The turn that comes of itself names a port that exists. -/
theorem wf_defaultTurn {s : State} (h : s.cfg.wf = true) : (defaultTurn s).wf s.cfg.nports = true := by
  have hpos : 0 < s.cfg.nports := by
    rw [Config.wf, Bool.and_eq_true, decide_eq_true_eq] at h
    exact h.1
  unfold defaultTurn
  split
  · simpa [Turn.wf, Turn.port?] using Nat.mod_lt _ hpos
  · rfl

theorem wf_nextTurn {s : State} (h : s.Inv) : (nextTurn s).wf s.cfg.nports = true := by
  unfold nextTurn
  split
  · exact wf_defaultTurn h.cfg_wf
  · exact h.turns_wf _ (by simp [*])

/-- Settles O52: a step faults only on a port that does not exist, and no turn names one. -/
theorem machineNeverStops : Obligations.MachineNeverStops := by
  unfold Obligations.MachineNeverStops
  intro s hinv
  have hwf := wf_nextTurn hinv
  rw [← hinv.ports_count] at hwf
  cases hn : nextTurn s with
  | offer p w =>
    rw [hn] at hwf
    exact ⟨_, (step_of_turn hn).trans (if_pos (of_decide_eq_true hwf))⟩
  | take p =>
    rw [hn] at hwf
    exact ⟨_, step_take hn (of_decide_eq_true hwf)⟩
  | assertReset => exact ⟨_, step_of_turn hn⟩
  | releaseReset => exact ⟨_, step_of_turn hn⟩
  | build => exact ⟨_, step_of_turn hn⟩
  | serve p =>
    rw [hn] at hwf
    exact ⟨_, step_serve hn (of_decide_eq_true hwf)⟩

/-! ### What port `p` can see -/

theorem sameFor_dropTurn {p : Nat} {s t : State} (h : State.SameFor p s t) :
    State.SameFor p (dropTurn s) (dropTurn t) :=
  { h with turns := congrArg List.tail h.turns }

theorem sameFor_atPort {p : Nat} (p' : Nat) {s t : State} (h : State.SameFor p s t) :
    State.SameFor p (atPort p' s) (atPort p' t) :=
  { h with cur := rfl }

/-- The same change of the same port, be it port `p` or another, cannot be told apart on port `p`. -/
theorem sameFor_modPort {p : Nat} (p' : Nat) (f : Port → Port) {s t : State} (h : State.SameFor p s t) :
    State.SameFor p (modPort p' f s) (modPort p' f t) :=
  { h with
    port := by rw [modPort_ports, modPort_ports, List.getElem?_modify, List.getElem?_modify, h.port]
    count := by simpa using h.count }

theorem sameFor_resetOn {p : Nat} {s t : State} (h : State.SameFor p s t) :
    State.SameFor p (resetOn s) (resetOn t) :=
  { h with
    ready := rfl
    resetAsserted := rfl
    mem := congrArg Memory.clear h.mem
    port := by rw [resetOn_ports, resetOn_ports, List.getElem?_map, List.getElem?_map, h.port]
    count := by simpa using h.count }

theorem sameFor_resetOff {p : Nat} {s t : State} (h : State.SameFor p s t) :
    State.SameFor p (resetOff s) (resetOff t) :=
  { h with resetAsserted := rfl }

/-- BUILD reads the reset level, `ready` and the count of visits, which all ports share. -/
theorem sameFor_buildTurn {p : Nat} {s t : State} (h : State.SameFor p s t) :
    State.SameFor p (buildTurn s) (buildTurn t) := by
  unfold buildTurn
  rw [h.resetAsserted, h.ready, h.mem]
  split_ifs
  · exact h
  · exact ⟨h.cfg, rfl, rfl, rfl, h.cur, h.turns, h.port, h.count⟩
  · exact ⟨h.cfg, rfl, rfl, rfl, h.cur, h.turns, h.port, h.count⟩

/-- What a port becomes in its turn depends on what all ports share alone. -/
theorem served_eq_of_sameFor {p : Nat} {s t : State} (h : State.SameFor p s t) : Port.served s = Port.served t := by
  funext q
  rw [Port.served, Port.served, mayAccept, mayAccept, h.ready, h.cfg, memRead_congr h.cfg h.mem]

theorem nextTurn_eq_of_sameFor {p : Nat} {s t : State} (h : State.SameFor p s t) : nextTurn s = nextTurn t := by
  rw [nextTurn, nextTurn, defaultTurn, defaultTurn, h.turns, h.ready, h.cur, h.cfg]

/-- Settles O55: the turn is the same, and each of the six turns reads only the port it names and what all share. -/
theorem otherPortsTrafficIsInvisible : Obligations.OtherPortsTrafficIsInvisible := by
  unfold Obligations.OtherPortsTrafficIsInvisible
  intro p s t s' t' h hs ht
  have hdrop := sameFor_dropTurn h
  rw [step_of_turn rfl] at hs
  rw [step_of_turn (nextTurn_eq_of_sameFor h).symm] at ht
  cases hn : nextTurn s with
  | offer p' w =>
    rw [hn] at hs ht
    obtain ⟨-, rfl⟩ := onPort_next hs
    obtain ⟨-, rfl⟩ := onPort_next ht
    exact sameFor_modPort p' _ hdrop
  | take p' =>
    rw [hn] at hs ht
    obtain ⟨-, rfl⟩ := onPort_next hs
    obtain ⟨-, rfl⟩ := onPort_next ht
    exact sameFor_modPort p' _ hdrop
  | assertReset =>
    rw [hn] at hs ht
    cases hs
    cases ht
    exact sameFor_resetOn hdrop
  | releaseReset =>
    rw [hn] at hs ht
    cases hs
    cases ht
    exact sameFor_resetOff hdrop
  | build =>
    rw [hn] at hs ht
    cases hs
    cases ht
    exact sameFor_buildTurn hdrop
  | serve p' =>
    rw [hn] at hs ht
    rw [serve_eq_next hs, serve_eq_next ht, served_eq_of_sameFor hdrop]
    exact sameFor_modPort p' _ (sameFor_atPort p' hdrop)

end Sys2Proof.Machine
end

section
/-! SUPPORT. Runs without listed turns, and the statements of 70_reset_and_hazards.md R182 and R189. -/

namespace Sys2Proof.Machine

/-! ### Runs -/

theorem run_succ_of_step {M : Host.Core} {k : Nat} {s t : M.State} (h : M.step s = .next t) :
    M.run (k + 1) s = M.run k t := by
  rw [Host.Core.run, h]

/-- A run of one step more ends with that step. -/
theorem run_succ_of_run {M : Host.Core} {k : Nat} {s t : M.State} (h : M.run k s = .next t) :
    M.run (k + 1) s = M.step t := by
  induction k generalizing s with
  | zero =>
    cases h
    rw [Host.Core.run]
    cases M.step t <;> rfl
  | succ k ih =>
    obtain ⟨u, hu, hrest⟩ := run_succ_next h
    rw [run_succ_of_step hu, ih hrest]

theorem dropTurn_of_no_turns {s : State} (h : s.turns = []) : dropTurn s = s := by
  have htail : s.turns.tail = s.turns := by rw [h, List.tail_nil]
  rw [dropTurn, htail]

/-! ### BUILD left to itself -/

/-- The state after `k` more visits of BUILD. -/
def State.visitedMore (s : State) (k : Nat) : State := { s with mem := { s.mem with visited := s.mem.visited + k } }

theorem nextTurn_of_building {s : State} (hturns : s.turns = []) (hready : s.ready = false) : nextTurn s = .build := by
  simp [nextTurn, hturns, defaultTurn, hready]

/-- What a step of BUILD is when no turn is listed. -/
theorem step_of_building {s : State} (hturns : s.turns = []) (hready : s.ready = false) :
    step s = .next (buildTurn s) := by
  rw [step_of_turn (nextTurn_of_building hturns hready), dropTurn_of_no_turns hturns]
  rfl

theorem step_visitedMore {s : State} (hturns : s.turns = []) (hreset : s.resetAsserted = false)
    (hready : s.ready = false) {k : Nat} (hk : s.mem.visited + k < 65536) :
    step (s.visitedMore k) = .next (s.visitedMore (k + 1)) := by
  have hpending : (s.visitedMore k).mem.complete = false := (Memory.complete_eq_false_iff _).2 hk
  have hvisit : (s.visitedMore k).mem.visit = (s.visitedMore (k + 1)).mem := if_pos hk
  rw [step_of_building (s := s.visitedMore k) hturns hready,
    buildTurn_of_not_complete (s := s.visitedMore k) hreset hready hpending, hvisit]
  rfl

theorem run_visits {s : State} (hturns : s.turns = []) (hreset : s.resetAsserted = false)
    (hready : s.ready = false) {k : Nat} (hk : s.mem.visited + k ≤ 65536) :
    Host.Core.run Sys2Proof.core k s = .next (s.visitedMore k) := by
  induction k with
  | zero => rfl
  | succ k ih => exact (run_succ_of_run (ih (by omega))).trans (step_visitedMore hturns hreset hready (by omega))

/-- Settles O41: BUILD makes the visits that are left, one a turn, and its next turn sets `ready`. -/
theorem buildEndsAndThenReady : Obligations.BuildEndsAndThenReady := by
  unfold Obligations.BuildEndsAndThenReady
  intro s hturns hreset hready hwf
  rw [Memory.wf_iff] at hwf
  refine ⟨fun k hk => ⟨_, run_visits hturns hreset hready (by omega), hready⟩, ?_⟩
  have hcomplete : (s.visitedMore (65536 - s.mem.visited)).mem.complete = true := by
    rw [Memory.complete_iff, State.visitedMore]
    dsimp only
    omega
  have hend := run_succ_of_run (run_visits hturns hreset hready (k := 65536 - s.mem.visited) (by omega))
  have hlast := step_of_building (s := s.visitedMore (65536 - s.mem.visited)) hturns hready
  rw [buildTurn_of_complete (s := s.visitedMore _) hreset hready hcomplete] at hlast
  refine ⟨_, hend.trans hlast, rfl, rfl, rfl, fun tb p => ?_⟩
  exact congrFun (congrFun (Memory.read_of_complete s.cfg _ hcomplete) tb) p

/-! ### A round of the ports -/

theorem nextTurn_of_ready {s : State} (hturns : s.turns = []) (hready : s.ready = true) :
    nextTurn s = .serve ((s.cur + 1) % s.cfg.nports) := by
  simp [nextTurn, hturns, defaultTurn, hready]

/-- A word on offer on a port with room is answered when the `d` ports before it have had their turns. -/
theorem run_answers_after {d : Nat} {s : State} {p : Nat} {q : Port} {w : CmdWord} {ws : List CmdWord} (hinv : s.Inv)
    (hturns : s.turns = []) (hready : s.ready = true) (hq : s.ports[p]? = some q) (ho : q.offered = w :: ws)
    (hroom : ∀ m, s.cfg.maxOutstanding = some m → q.rspq.length < m) (hd : d < s.cfg.nports)
    (hp : p = (s.cur + 1 + d) % s.cfg.nports) :
    ∃ t : State, Host.Core.run Sys2Proof.core (d + 1) s = .next t ∧
      t.ports[p]? = some ⟨ws, q.rspq ++ [response s.cfg w], q.taken⟩ := by
  have hn := nextTurn_of_ready hturns hready
  induction d generalizing s with
  | zero =>
    rw [Nat.add_zero] at hp
    rw [← hp] at hn
    obtain ⟨t, ht, hport, -⟩ :=
      acceptedCommandsAreAnsweredInOrder s p q w ws hn hq ho hready (hinv.ready_built hready) hroom
    exact ⟨t, run_succ_of_step (M := Sys2Proof.core) ht, hport⟩
  | succ d ih =>
    have hpos : 0 < s.cfg.nports := by omega
    have hother : p ≠ (s.cur + 1) % s.cfg.nports := by
      intro h
      have hmod : s.cur + 1 + (d + 1) ≡ s.cur + 1 + 0 [MOD s.cfg.nports] := hp.symm.trans h
      have hzero : (d + 1) % s.cfg.nports = 0 % s.cfg.nports := hmod.add_left_cancel'
      rw [Nat.mod_eq_of_lt hd, Nat.zero_mod] at hzero
      omega
    have hexists : (s.cur + 1) % s.cfg.nports < s.ports.length := by
      rw [hinv.ports_count]
      exact Nat.mod_lt _ hpos
    have hstep := step_serve hn hexists
    rw [dropTurn_of_no_turns hturns] at hstep
    have hq' := (getElem?_modify_ne (f := Port.served s) hother).trans hq
    have hround : p = ((s.cur + 1) % s.cfg.nports + 1 + d) % s.cfg.nports := by
      rw [hp, Nat.add_assoc ((s.cur + 1) % s.cfg.nports), Nat.mod_add_mod, Nat.add_comm 1 d]
    obtain ⟨t, ht, hport⟩ := ih (step_keeps_inv hinv hstep) hturns hready hq' hroom (Nat.lt_of_succ_lt hd) hround
      (nextTurn_of_ready hturns hready)
    exact ⟨t, (run_succ_of_step (M := Sys2Proof.core) hstep).trans ht, hport⟩

/-- Settles O56: from `cur` on, the ports take turns in a round. -/
theorem offeredCommandsAreAcceptedInARound : Obligations.OfferedCommandsAreAcceptedInARound := by
  unfold Obligations.OfferedCommandsAreAcceptedInARound
  intro s p q w ws hinv hturns hready hq ho hroom
  have hcur := hinv.cur_exists
  have hp : p < s.cfg.nports := hinv.ports_count ▸ (List.getElem?_eq_some_iff.1 hq).1
  obtain ⟨d, hd, hround⟩ : ∃ d, d < s.cfg.nports ∧ p = (s.cur + 1 + d) % s.cfg.nports := by
    obtain hlt | hle := Nat.lt_or_ge s.cur p
    · exact ⟨p - s.cur - 1, by omega, by rw [Nat.mod_eq_of_lt] <;> omega⟩
    · refine ⟨s.cfg.nports + p - s.cur - 1, by omega, ?_⟩
      rw [show s.cur + 1 + (s.cfg.nports + p - s.cur - 1) = p + s.cfg.nports by omega, Nat.add_mod_right,
        Nat.mod_eq_of_lt hp]
  obtain ⟨t, ht, hport⟩ := run_answers_after hinv hturns hready hq ho hroom hd hround
  exact ⟨d + 1, t, hd, ht, hport⟩

end Sys2Proof.Machine
end

section
/-! SUPPORT. The slides and the row tables under reversal, and the statements of 40_table_generator.md R91, R92 and
R107. -/

namespace Sys2Proof.Machine

theorem rev_xor (p q : Pattern) : rev (p ^^^ q) = rev p ^^^ rev q :=
  pattern_ext fun k hk => by rw [nib_xor, nib_rev _ _ hk, nib_rev _ _ hk, nib_rev _ _ hk, nib_xor]

/-- The right slide of a line is the left slide of its reverse, seen in the mirror (40_table_generator.md R86). -/
theorem slideR_rev (p : Pattern) : slideR (rev p) = rev (slideL p) := by rw [slideR, rev_rev]

theorem rowrEntry_rev (p : Pattern) : rowrEntry (rev p) = rev (rowlEntry p) := by
  rw [rowrEntry, slideR_rev, rowlEntry, rev_xor]

/-- Settles O12: `rev` distributes over the XOR of a delta. -/
theorem rowTablesMirrorEachOther : Obligations.RowTablesMirrorEachOther := by
  unfold Obligations.RowTablesMirrorEachOther
  exact fun c p => ⟨(rev_xor p _).trans (congrArg _ (rowrEntry_rev p).symm), rowrEntry_rev p⟩

/-- Settles O13: each line is written out, and its slide is evaluated. -/
theorem sampleSlides : Obligations.SampleSlides := by
  unfold Obligations.SampleSlides
  decide

/-- Settles O19: each pattern is written out, and its heuristic is evaluated. -/
theorem sampleHeuristics : Obligations.SampleHeuristics := by
  unfold Obligations.SampleHeuristics
  decide

end Sys2Proof.Machine
end

section
/-! SUPPORT. The three integer parts of the heuristic: what the runs of a line add up to, the monotonicity accumulators in
closed form, what a reversal does to them, and the statements of 40_table_generator.md R98, R99 and R106. -/

namespace Sys2Proof.Machine

/-! ### Tiles in runs -/

/-- Position `k` of a line, which stands after the cell `prev` if there is one, holds a tile that has an equal
neighbour (40_table_generator.md R98). -/
def tileInRun (prev : Option Rank) (l : List Rank) (k : Nat) : Bool :=
  decide (l[k]? ≠ some 0 ∧ ((if k = 0 then prev else l[k - 1]?) = l[k]? ∨ l[k + 1]? = l[k]?))

/-- How many positions of a line hold such a tile. -/
def tilesInRuns (prev : Option Rank) (l : List Rank) : Nat := (List.range l.length).countP (tileInRun prev l)

theorem tileInRun_cons_succ (prev : Option Rank) (n : Rank) (ns : List Rank) (k : Nat) :
    tileInRun prev (n :: ns) (k + 1) = tileInRun (some n) ns k := by
  cases k <;> simp [tileInRun]

theorem tilesInRuns_nil (prev : Option Rank) : tilesInRuns prev [] = 0 := rfl

theorem tilesInRuns_cons (prev : Option Rank) (n : Rank) (ns : List Rank) :
    tilesInRuns prev (n :: ns) =
      tilesInRuns (some n) ns + if n ≠ 0 ∧ (prev = some n ∨ ns.head? = some n) then 1 else 0 := by
  have htail : tileInRun prev (n :: ns) ∘ Nat.succ = tileInRun (some n) ns :=
    funext fun k => tileInRun_cons_succ prev n ns k
  have hhead : tileInRun prev (n :: ns) 0 = decide (n ≠ 0 ∧ (prev = some n ∨ ns.head? = some n)) := by
    simp [tileInRun, List.head?_eq_getElem?]
  rw [tilesInRuns, List.length_cons, List.range_succ_eq_map, List.countP_cons, List.countP_map, htail, hhead,
    tilesInRuns]
  simp only [decide_eq_true_eq]

/-- The first run of a line and what follows it: the run's tiles count when the run has two or more cells, or when it goes
on from the cell before it. -/
theorem exists_runs_eq (n : Rank) (ns : List Rank) :
    ∃ len rest, runs (n :: ns) = (n, len + 1) :: rest ∧ ∀ prev, tilesInRuns prev (n :: ns) =
      (if n ≠ 0 ∧ (prev = some n ∨ 1 ≤ len) then len + 1 else 0) + (rest.map runMerges).sum := by
  induction ns generalizing n with
  | nil => exact ⟨0, [], rfl, fun prev => by simp [tilesInRuns_cons, tilesInRuns_nil]⟩
  | cons m ms ih =>
    obtain ⟨len, rest, hruns, hcount⟩ := ih m
    by_cases hmn : m = n
    · subst hmn
      refine ⟨len + 1, rest, by rw [runs, hruns]; simp, fun prev => ?_⟩
      rw [tilesInRuns_cons, hcount]
      by_cases hm : m = 0
      · simp [hm]
      · rw [if_pos ⟨hm, .inl rfl⟩, if_pos ⟨hm, .inr rfl⟩, if_pos ⟨hm, .inr (by omega)⟩]
        omega
    · refine ⟨0, (m, len + 1) :: rest, by rw [runs, hruns]; simp [hmn], fun prev => ?_⟩
      rw [tilesInRuns_cons, hcount]
      simp [runMerges, hmn, Ne.symm hmn]
      omega

/-- What the runs of a line add to `merges` is the number of its tiles in runs (40_table_generator.md R98). -/
theorem sum_runMerges_runs (l : List Rank) : ((runs l).map runMerges).sum = tilesInRuns none l := by
  cases l with
  | nil => rfl
  | cons n ns =>
    obtain ⟨len, rest, hruns, hcount⟩ := exists_runs_eq n ns
    rw [hruns, hcount]
    simp [runMerges]

/-- The line that `merges` looks at (40_table_generator.md R98, decision D17). -/
def mergeCells (c : Config) (p : Pattern) : List Rank := if c.mergeSkipEmpty then tiles p else nibbles p

theorem heurMerges_eq (c : Config) (p : Pattern) : heurMerges c p = tilesInRuns none (mergeCells c p) :=
  sum_runMerges_runs _

/-- Settles O16: the number of tiles in runs, in the line itself and in the list of its tiles. -/
theorem mergesCountsTilesInRuns : Obligations.MergesCountsTilesInRuns := by
  unfold Obligations.MergesCountsTilesInRuns
  refine fun c p => ⟨fun hskip => ?_, fun hskip => ?_⟩
  · rw [heurMerges_eq, mergeCells, if_neg (by simp [hskip])]
    refine List.countP_congr fun k hk => ?_
    have hk4 : k < 4 := List.mem_range.1 hk
    interval_cases k <;> simp [tileInRun, nibbles]
  · rw [heurMerges_eq, mergeCells, if_pos hskip]
    refine List.countP_congr fun k hk => ?_
    have htile : (tiles p)[k]? ≠ some 0 := fun h => ne_zero_of_mem_tiles (List.mem_of_getElem? h) rfl
    simp only [tileInRun, decide_eq_true_eq, and_iff_right htile]
    cases k with
    | zero => simp [List.getElem?_eq_getElem (List.mem_range.1 hk)]
    | succ k => simp

/-! ### Monotonicity -/

/-- The accumulators add truncated differences, one of which is zero (40_table_generator.md R99). -/
theorem monoPair_cons_cons (e a b : Nat) (rest : List Nat) :
    monoPair e (a :: b :: rest) =
      ((monoPair e (b :: rest)).1 + (a ^ e - b ^ e), (monoPair e (b :: rest)).2 + (b ^ e - a ^ e)) := by
  rw [monoPair]
  dsimp only
  split_ifs with hlt
  · rw [Nat.sub_eq_zero_of_le (Nat.pow_le_pow_left hlt.le e), Nat.add_zero]
  · rw [Nat.sub_eq_zero_of_le (Nat.pow_le_pow_left (not_lt.1 hlt) e), Nat.add_zero]

theorem monoPair_singleton (e a : Nat) : monoPair e [a] = (0, 0) := rfl

/-- The accumulators of a line of four cells. -/
theorem monoPair_four (e a b c d : Nat) :
    monoPair e [a, b, c, d] =
      ((c ^ e - d ^ e) + (b ^ e - c ^ e) + (a ^ e - b ^ e), (d ^ e - c ^ e) + (c ^ e - b ^ e) + (b ^ e - a ^ e)) := by
  rw [monoPair_cons_cons, monoPair_cons_cons, monoPair_cons_cons, monoPair_singleton, Nat.zero_add, Nat.zero_add]

/-- The power of a cell that the accumulators compare. -/
def cellPower (c : Config) (p : Pattern) (k : Nat) : Nat := (nib p k).toNat ^ c.pMono

theorem heurMonoA_eq (c : Config) (p : Pattern) :
    heurMonoA c p = (cellPower c p 2 - cellPower c p 3) + (cellPower c p 1 - cellPower c p 2) +
      (cellPower c p 0 - cellPower c p 1) :=
  congrArg Prod.fst (monoPair_four _ _ _ _ _)

theorem heurMonoB_eq (c : Config) (p : Pattern) :
    heurMonoB c p = (cellPower c p 3 - cellPower c p 2) + (cellPower c p 2 - cellPower c p 1) +
      (cellPower c p 1 - cellPower c p 0) :=
  congrArg Prod.snd (monoPair_four _ _ _ _ _)

/-- No rank's fourth power is above that of 15. -/
theorem cellPower_le {c : Config} (h : c.pMono = 4) (p : Pattern) (k : Nat) : cellPower c p k ≤ 50625 := by
  rw [cellPower, h]
  exact Nat.pow_le_pow_left (show (nib p k).toNat ≤ 15 by omega) 4

/-- Settles O17: three steps between powers of at most 50625 go down at most twice in all, and on one of the two sides
at most once. -/
theorem monotonicityIsBounded : Obligations.MonotonicityIsBounded := by
  unfold Obligations.MonotonicityIsBounded
  intro c p hexp
  have hend (k : Nat) : ((nib p k).toNat : Int) ^ 4 = cellPower c p k := by rw [cellPower, hexp, Nat.cast_pow]
  have h0 := cellPower_le hexp p 0
  have h1 := cellPower_le hexp p 1
  have h2 := cellPower_le hexp p 2
  have h3 := cellPower_le hexp p 3
  rw [heurMono, heurMonoA_eq, heurMonoB_eq, hend, hend]
  omega

/-! ### Reversal -/

theorem nibbles_rev (p : Pattern) : nibbles (rev p) = (nibbles p).reverse := by simp [nibbles]

theorem heurEmpty_rev (p : Pattern) : heurEmpty (rev p) = heurEmpty p := by
  rw [heurEmpty, nibbles_rev, List.countP_reverse, heurEmpty]

/-- The two neighbours of a position change places in the reversed line. -/
theorem tileInRun_reverse (l : List Rank) {k : Nat} (hk : k < l.length) :
    tileInRun none l.reverse (l.length - 1 - k) = tileInRun none l k := by
  have hhere : l.reverse[l.length - 1 - k]? = l[k]? := List.getElem?_reverse' (by omega)
  have hleft : (if l.length - 1 - k = 0 then none else l.reverse[l.length - 1 - k - 1]?) = l[k + 1]? := by
    split_ifs with hlast
    · exact (List.getElem?_eq_none (by omega)).symm
    · exact List.getElem?_reverse' (by omega)
  have hright : l.reverse[l.length - 1 - k + 1]? = if k = 0 then none else l[k - 1]? := by
    split_ifs with hfirst
    · exact List.getElem?_eq_none (by rw [List.length_reverse]; omega)
    · exact List.getElem?_reverse' (by omega)
  rw [tileInRun, hhere, hleft, hright, tileInRun]
  exact decide_eq_decide.2 (and_congr_right fun _ => or_comm)

theorem tilesInRuns_reverse (l : List Rank) : tilesInRuns none l.reverse = tilesInRuns none l := by
  rw [tilesInRuns, List.length_reverse, ← List.countP_reverse, List.range_eq_range', List.reverse_range', List.countP_map,
    tilesInRuns]
  refine List.countP_congr fun k hk => ?_
  simp only [Function.comp, Nat.zero_add, tileInRun_reverse l (List.mem_range.1 hk)]

theorem mergeCells_rev (c : Config) (p : Pattern) : mergeCells c (rev p) = (mergeCells c p).reverse := by
  rw [mergeCells, mergeCells, tiles_rev, nibbles_rev]
  split
  · rfl
  · rfl

theorem heurMerges_rev (c : Config) (p : Pattern) : heurMerges c (rev p) = heurMerges c p := by
  rw [heurMerges_eq, heurMerges_eq, mergeCells_rev, tilesInRuns_reverse]

theorem cellPower_rev (c : Config) (p : Pattern) {k : Nat} (hk : k < 4) :
    cellPower c (rev p) k = cellPower c p (3 - k) := by
  rw [cellPower, nib_rev _ _ hk, cellPower]

/-- Decreases become increases. -/
theorem heurMonoA_rev (c : Config) (p : Pattern) : heurMonoA c (rev p) = heurMonoB c p := by
  rw [heurMonoA_eq, heurMonoB_eq]
  simp only [cellPower_rev, Nat.reduceLT, Nat.reduceSub]
  omega

theorem heurMono_rev (c : Config) (p : Pattern) : heurMono c (rev p) = heurMono c p := by
  have hB : heurMonoB c (rev p) = heurMonoA c p := by rw [← heurMonoA_rev, rev_rev]
  rw [heurMono, heurMonoA_rev, hB, Nat.min_comm, heurMono]

/-- Settles O18: a count of cells, a count of cells with equal neighbours, and the lesser of two sums that change
places. -/
theorem heuristicCountsIgnoreReversal : Obligations.HeuristicCountsIgnoreReversal := by
  unfold Obligations.HeuristicCountsIgnoreReversal
  exact fun c p => ⟨heurEmpty_rev p, heurMerges_rev c p, heurMono_rev c p⟩

end Sys2Proof.Machine
end

section
/-! SUPPORT. The fields of a binary64 pattern, sums and products under exchange of their operands, EVAL under transposition,
and the statements of 42_eval.md R131 and R133. -/

namespace Sys2Proof.Machine

/-! ### The fields of a pattern -/

/-- The exponent and fraction bits of a pattern, which `f64Pack` takes. -/
def f64Body (f : F64) : Nat := f64Exp f * 2 ^ 52 + f64Frac f

theorem f64Exp_eq (f : F64) : f64Exp f = f.toNat / 2 ^ 52 % 2 ^ 11 := by
  rw [f64Exp, BitVec.extractLsb'_toNat, Nat.shiftRight_eq_div_pow]

theorem f64Frac_eq (f : F64) : f64Frac f = f.toNat % 2 ^ 52 := by
  rw [f64Frac, BitVec.extractLsb'_toNat, Nat.shiftRight_zero]

theorem f64Sign_eq (f : F64) : f64Sign f = decide (2 ^ 63 ≤ f.toNat) :=
  (BitVec.msb_eq_getLsbD_last f).symm.trans (BitVec.msb_eq_decide f)

theorem f64Pack_toNat (neg : Bool) {body : Nat} (h : body < 2 ^ 63) :
    (f64Pack neg body).toNat = (if neg then 2 ^ 63 else 0) + body := by
  rw [f64Pack, BitVec.toNat_ofNat]
  split <;> omega

theorem f64Sign_pack (neg : Bool) {body : Nat} (h : body < 2 ^ 63) : f64Sign (f64Pack neg body) = neg := by
  rw [f64Sign_eq, f64Pack_toNat neg h]
  cases neg with
  | false => simpa using h
  | true => simp

theorem f64Exp_pack (neg : Bool) {body : Nat} (h : body < 2 ^ 63) : f64Exp (f64Pack neg body) = body / 2 ^ 52 := by
  rw [f64Exp_eq, f64Pack_toNat neg h]
  split <;> omega

theorem f64Frac_pack (neg : Bool) {body : Nat} (h : body < 2 ^ 63) : f64Frac (f64Pack neg body) = body % 2 ^ 52 := by
  rw [f64Frac_eq, f64Pack_toNat neg h]
  split <;> omega

theorem f64Frac_lt (f : F64) : f64Frac f < 2 ^ 52 := (f.extractLsb' 0 52).isLt

theorem f64Body_lt (f : F64) : f64Body f < 2 ^ 63 := by
  rw [f64Body, f64Exp_eq, f64Frac_eq]
  omega

/-- A pattern is its three fields (00_scope.md R13). -/
theorem f64Pack_sign_body (f : F64) : f64Pack (f64Sign f) (f64Body f) = f := by
  apply BitVec.eq_of_toNat_eq
  have hlt : f.toNat < 2 ^ 64 := f.isLt
  rw [f64Pack_toNat _ (f64Body_lt f), f64Sign_eq, f64Body, f64Exp_eq, f64Frac_eq]
  simp only [decide_eq_true_eq]
  split <;> omega

/-! ### The exchange of the operands -/

theorem quietNaN_comm (a b : F64) : quietNaN a b = quietNaN b a := by
  unfold quietNaN
  obtain hlt | heq | hgt := Nat.lt_trichotomy a.toNat b.toNat
  · rw [if_pos hlt.le, if_neg hlt.not_ge]
  · rw [BitVec.eq_of_toNat_eq heq]
  · rw [if_neg hgt.not_ge, if_pos hgt.le]

/-- A zero stands at place 0. -/
theorem f64Scale_of_sig_eq_zero {f : F64} (h : f64Sig f = 0) : f64Scale f = 0 := by
  unfold f64Sig at h
  split at h
  next hexp => rw [f64Scale, hexp]
  next => omega

theorem commonScale_comm (a b : F64) : commonScale a b = commonScale b a := by
  unfold commonScale
  split_ifs with ha hb
  · rw [f64Scale_of_sig_eq_zero ha, f64Scale_of_sig_eq_zero hb]
  · rfl
  · rfl
  · exact Nat.min_comm _ _

theorem f64Body_of_isInf {f : F64} (h : f64IsInf f = true) : f64Body f = infBody := by
  simp only [f64IsInf, Bool.and_eq_true, beq_iff_eq] at h
  rw [f64Body, h.1, h.2, infBody, Nat.add_zero]

/-- Two infinities of one sign are one pattern. -/
theorem eq_of_isInf {a b : F64} (ha : f64IsInf a = true) (hb : f64IsInf b = true) (h : f64Sign a = f64Sign b) :
    a = b := by
  rw [← f64Pack_sign_body a, ← f64Pack_sign_body b, h, f64Body_of_isInf ha, f64Body_of_isInf hb]

theorem fadd_comm (a b : F64) : fadd a b = fadd b a := by
  unfold fadd
  rw [Bool.or_comm (f64IsNaN b), quietNaN_comm b a]
  by_cases hnan : (f64IsNaN a || f64IsNaN b) = true
  · rw [if_pos hnan, if_pos hnan]
  · rw [if_neg hnan, if_neg hnan]
    cases ha : f64IsInf a <;> cases hb : f64IsInf b
    · simp [commonScale_comm b a, Int.add_comm (f64At _ b), Bool.and_comm (f64Sign b)]
    · simp
    · simp
    · by_cases hsign : f64Sign a = f64Sign b
      · simp [eq_of_isInf ha hb hsign]
      · simp [hsign, Ne.symm hsign]

theorem fmul_comm (a b : F64) : fmul a b = fmul b a := by
  have hneg : (f64Sign b != f64Sign a) = (f64Sign a != f64Sign b) := bne_comm
  unfold fmul
  rw [Bool.or_comm (f64IsNaN b), Bool.or_comm (f64IsInf b), Bool.or_comm (f64IsFinite b && _), quietNaN_comm b a, hneg,
    Nat.mul_comm (f64Sig b), Nat.add_comm (f64Scale b)]

/-- Settles O29: every part of the sum and of the product treats its operands alike, the free NaN too. -/
theorem sumAndProductCommute : Obligations.SumAndProductCommute := by
  unfold Obligations.SumAndProductCommute
  exact fun a b => ⟨fadd_comm a b, fmul_comm a b⟩

/-! ### EVAL of the transposed board -/

theorem colScore_transpose (rd : TableReader) (b : Board) : colScore rd (transpose b) = rowScore rd b := by
  simp only [colScore, rowScore, colIndex, rowIndex, transposeIsAnInvolution b]

theorem rowScore_transpose (rd : TableReader) (b : Board) : rowScore rd (transpose b) = colScore rd b := rfl

/-- The row score and the column score change places (42_eval.md R133). -/
theorem evalBoard_transpose (rd : TableReader) (b : Board) : evalBoard rd (transpose b) = evalBoard rd b := by
  rw [evalBoard, rowScore_transpose, colScore_transpose, fadd_comm, evalBoard]

/-- Settles O28: addition commutes, and the boards and the pattern that differ are those of the tests. -/
theorem evalIgnoresTransposition : Obligations.EvalIgnoresTransposition := by
  unfold Obligations.EvalIgnoresTransposition
  refine ⟨fun b s => ?_, ⟨0x0104700122002043#64, ?_⟩, ⟨transpose 0x0104700122002043#64, ?_⟩,
    ⟨0x0259#16, test_heur_sees_reversal⟩⟩
  · rw [exec_eq, exec_eq, resultOf, evalBoard_transpose, resultOf]
  · rw [test_eval_sees_mirror.1, test_eval_sees_mirror.2]
    decide
  · rw [test_eval_sees_flip.1, test_eval_sees_flip.2]
    decide

end Sys2Proof.Machine
end

section
/-! SUPPORT. Rounding to nearest: the place and the significand that `roundBody` gives, and that no finite binary64 is nearer
(42_eval.md R130, R131). -/

namespace Sys2Proof.Machine

/-! ### Division rounded to nearest -/

/-- The quotient is rounded down up to a remainder of half the divisor and up from there on, and at half to the even
quotient. -/
theorem roundShift_cases (n s : Nat) :
    ∃ q r, n = q * 2 ^ s + r ∧ r < 2 ^ s ∧
      (roundShift n s = q ∧ 2 * r ≤ 2 ^ s ∧ (2 * r = 2 ^ s → q % 2 = 0) ∨
        roundShift n s = q + 1 ∧ 2 ^ s ≤ 2 * r ∧ (2 * r = 2 ^ s → q % 2 = 1)) := by
  refine ⟨n / 2 ^ s, n % 2 ^ s, (Nat.div_add_mod' n _).symm, Nat.mod_lt _ (Nat.two_pow_pos s), ?_⟩
  unfold roundShift
  dsimp only
  split_ifs <;> omega

/-- No whole number is nearer to `n / 2^s`, and of two as near the even one is given. -/
theorem roundShift_nearest (n s j : Nat) :
    Nat.dist (roundShift n s * 2 ^ s) n ≤ Nat.dist (j * 2 ^ s) n ∧
      (Nat.dist (roundShift n s * 2 ^ s) n = Nat.dist (j * 2 ^ s) n → j = roundShift n s ∨ roundShift n s % 2 = 0) := by
  obtain ⟨q, r, rfl, hr, hround⟩ := roundShift_cases n s
  have hnext : (q + 1) * 2 ^ s = q * 2 ^ s + 2 ^ s := Nat.succ_mul q _
  have hwhole (i : Nat) : i = 0 ∨ 2 ^ s ≤ i * 2 ^ s :=
    (Nat.eq_zero_or_pos i).imp_right fun hi => Nat.le_mul_of_pos_left _ hi
  obtain hle | hgt := (Nat.lt_or_ge q j).symm
  · obtain ⟨i, rfl⟩ := Nat.exists_eq_add_of_le hle
    have hfar := hwhole i
    have hsum : (j + i) * 2 ^ s = j * 2 ^ s + i * 2 ^ s := Nat.add_mul j i _
    obtain ⟨hM, hrest⟩ | ⟨hM, hrest⟩ := hround
    · rw [hM, Nat.dist, Nat.dist]
      omega
    · rw [hM, hnext, Nat.dist, Nat.dist]
      omega
  · obtain ⟨i, rfl⟩ := Nat.exists_eq_add_of_le hgt
    have hfar := hwhole i
    have hsum : (q.succ + i) * 2 ^ s = q * 2 ^ s + 2 ^ s + i * 2 ^ s := by rw [Nat.add_mul, Nat.succ_mul]
    obtain ⟨hM, hrest⟩ | ⟨hM, hrest⟩ := hround
    · rw [hM, Nat.dist, Nat.dist]
      omega
    · rw [hM, hnext, Nat.dist, Nat.dist]
      omega

theorem roundShift_le {n s j : Nat} (h : n ≤ j * 2 ^ s) : roundShift n s ≤ j := by
  have hpos := Nat.two_pow_pos s
  obtain ⟨q, r, rfl, hr, ⟨hM, -⟩ | ⟨hM, hhalf, -⟩⟩ := roundShift_cases n s
  · rw [hM]
    exact Nat.le_of_mul_le_mul_right (by omega) hpos
  · rw [hM]
    exact Nat.lt_of_mul_lt_mul_right (a := 2 ^ s) (by omega)

theorem le_roundShift {n s j : Nat} (h : j * 2 ^ s ≤ n) : j ≤ roundShift n s := by
  obtain ⟨q, r, rfl, hr, hround⟩ := roundShift_cases n s
  have hq : j < q + 1 := Nat.lt_of_mul_lt_mul_right (a := 2 ^ s) (by rw [Nat.succ_mul]; omega)
  omega

/-! ### The place and the significand -/

/-- The magnitude of a pattern whose significand `m` stands at place `t`. -/
theorem f64Mag_pack (neg : Bool) {t m : Nat} (hm : m ≤ 2 ^ 53) (ht : t = 0 ∨ 2 ^ 52 ≤ m)
    (hfin : t * 2 ^ 52 + m < infBody) : f64Mag (f64Pack neg (t * 2 ^ 52 + m)) = m * 2 ^ t := by
  have hlt : t * 2 ^ 52 + m < 2 ^ 63 := hfin.trans (by decide)
  rw [f64Mag, f64Sig, f64Scale, f64Exp_pack neg hlt, f64Frac_pack neg hlt]
  obtain hsub | ⟨h52, h53⟩ | rfl : m < 2 ^ 52 ∨ (2 ^ 52 ≤ m ∧ m < 2 ^ 53) ∨ m = 2 ^ 53 := by omega
  · obtain rfl : t = 0 := by omega
    rw [if_pos (by omega), show (0 * 2 ^ 52 + m) % 2 ^ 52 = m by omega, show (0 * 2 ^ 52 + m) / 2 ^ 52 - 1 = 0 by omega]
  · rw [if_neg (by omega), show (t * 2 ^ 52 + m) / 2 ^ 52 - 1 = t by omega,
      show 2 ^ 52 + (t * 2 ^ 52 + m) % 2 ^ 52 = m by omega]
  · rw [if_neg (by omega), show (t * 2 ^ 52 + 2 ^ 53) / 2 ^ 52 - 1 = t + 1 by omega,
      show 2 ^ 52 + (t * 2 ^ 52 + 2 ^ 53) % 2 ^ 52 = 2 ^ 52 by omega]
    ring

theorem f64Sig_lt (f : F64) : f64Sig f < 2 ^ 53 := by
  have hfrac := f64Frac_lt f
  unfold f64Sig
  split <;> omega

/-- Seen from place `t`, a value is a whole number of units, or lies below the normal significands. -/
theorem f64Mag_multiple_or_lt (y : F64) (t : Nat) :
    (∃ j, f64Mag y = j * 2 ^ t) ∨ (t ≠ 0 ∧ f64Mag y < 2 ^ 52 * 2 ^ t) := by
  obtain hle | hgt := le_or_gt t (f64Scale y)
  · refine .inl ⟨f64Sig y * 2 ^ (f64Scale y - t), ?_⟩
    rw [Nat.mul_assoc, ← Nat.pow_add, Nat.sub_add_cancel hle, f64Mag]
  · refine .inr ⟨by omega, ?_⟩
    calc f64Sig y * 2 ^ f64Scale y < 2 ^ 53 * 2 ^ f64Scale y :=
          Nat.mul_lt_mul_of_pos_right (f64Sig_lt y) (Nat.two_pow_pos _)
      _ = 2 ^ 52 * 2 ^ (f64Scale y + 1) := by ring
      _ ≤ 2 ^ 52 * 2 ^ t := Nat.mul_le_mul_left _ (Nat.pow_le_pow_right (by decide) hgt)

theorem log2_mul_two_pow {n : Nat} (hn : n ≠ 0) (k : Nat) : Nat.log2 (n * 2 ^ k) = Nat.log2 n + k := by
  have hpos := Nat.two_pow_pos k
  refine (Nat.log2_eq_iff (by positivity)).2 ⟨?_, ?_⟩
  · rw [Nat.pow_add]
    exact Nat.mul_le_mul_right _ (Nat.log2_self_le hn)
  · rw [Nat.add_right_comm, Nat.pow_add]
    exact Nat.mul_lt_mul_of_pos_right Nat.lt_log2_self hpos

/-- What `roundBody` does with the magnitude `n * 2^x` units: written as `n'` at a lower place `d - 1074`, it loses its low
`s` bits, and what is left has at most 53 bits and stands at place `t`; above place 0 it has no fewer. -/
structure RoundsAt (n : Nat) (x : Int) (t s n' d : Nat) : Prop where
  body : roundBody n x = min (t * 2 ^ 52 + roundShift n' s) infBody
  value : n' * 2 ^ d = n * 2 ^ (x + 1074).toNat
  place : d + s = t + 1074
  upper : n' < 2 ^ (s + 53)
  lower : t = 0 ∨ 2 ^ (s + 52) ≤ n'

theorem exists_roundsAt {n : Nat} (hn : n ≠ 0) {x : Int} (hx : -1074 ≤ x) : ∃ t s n' d, RoundsAt n x t s n' d := by
  obtain ⟨k, hk⟩ : ∃ k, k = min x.toNat (52 - Nat.log2 n) := ⟨_, rfl⟩
  have hlog := log2_mul_two_pow hn k
  refine ⟨_, _, n * 2 ^ k, (x - k + 1074).toNat, by rw [roundBody, ← hk], ?_, ?_, ?_, ?_⟩
  · rw [Nat.mul_assoc, ← Nat.pow_add]
    congr 2
    omega
  · omega
  · refine Nat.lt_log2_self.trans_le (Nat.pow_le_pow_right (by decide) ?_)
    omega
  · rw [or_iff_not_imp_left]
    intro ht
    refine (Nat.pow_le_pow_right (by decide) ?_).trans (Nat.log2_self_le (by positivity))
    omega

/-! ### No finite value is nearer -/

theorem f64IsFinite_iff (f : F64) : f64IsFinite f = true ↔ f64Exp f ≠ 2047 := by simp [f64IsFinite]

theorem roundBody_le (n : Nat) (x : Int) : roundBody n x ≤ infBody := Nat.min_le_right _ _

/-- A rounded value is finite when it is below the infinity. -/
theorem f64IsFinite_pack_iff (neg : Bool) {body : Nat} (h : body ≤ infBody) :
    f64IsFinite (f64Pack neg body) = true ↔ body < infBody := by
  rw [f64IsFinite_iff, f64Exp_pack neg (h.trans_lt (by decide))]
  rw [infBody] at h ⊢
  omega

section
variable {n : Nat} {x : Int} {t s n' d : Nat} (h : RoundsAt n x t s n' d)
include h

theorem RoundsAt.significand_le : roundShift n' s ≤ 2 ^ 53 :=
  roundShift_le (by rw [← Nat.pow_add, Nat.add_comm]; exact h.upper.le)

theorem RoundsAt.significand_normal : t = 0 ∨ 2 ^ 52 ≤ roundShift n' s :=
  h.lower.imp_right fun hle => le_roundShift (by rwa [← Nat.pow_add, Nat.add_comm])

/-- The magnitude of the rounded value when it is finite. -/
theorem RoundsAt.mag_pack (neg : Bool) (hfin : t * 2 ^ 52 + roundShift n' s < infBody) :
    f64Mag (f64Pack neg (roundBody n x)) = roundShift n' s * 2 ^ t := by
  rw [h.body, Nat.min_eq_left hfin.le, f64Mag_pack neg h.significand_le h.significand_normal hfin]

end

/-- A finite rounded magnitude is as near to the exact one as any other, and of two as near the even one is given. Both are
counted in units of `2^-2148`, of which the exact product of two values is a whole number. -/
theorem f64Mag_nearest {n : Nat} (hn : n ≠ 0) {x : Int} (hx : -1074 ≤ x) {neg : Bool} {f : F64}
    (hf : f = f64Pack neg (roundBody n x)) (hfin : f64IsFinite f = true) {exact : Nat}
    (hexact : exact = n * 2 ^ (x + 1074).toNat) (y : F64) :
    Nat.dist (f64Mag f * 2 ^ 1074) exact ≤ Nat.dist (f64Mag y * 2 ^ 1074) exact ∧
      (Nat.dist (f64Mag f * 2 ^ 1074) exact = Nat.dist (f64Mag y * 2 ^ 1074) exact →
        f64Mag y = f64Mag f ∨ f64Frac f % 2 = 0) := by
  obtain ⟨t, s, n', d, hround⟩ := exists_roundsAt hn hx
  rw [hf, f64IsFinite_pack_iff neg (roundBody_le n x), hround.body] at hfin
  have hlt : t * 2 ^ 52 + roundShift n' s < infBody := by omega
  have hmag : f64Mag f = roundShift n' s * 2 ^ t := by rw [hf, hround.mag_pack neg hlt]
  have hfrac : f64Frac f % 2 = roundShift n' s % 2 := by
    rw [hf, hround.body, Nat.min_eq_left hlt.le, f64Frac_pack neg (hlt.trans (by decide))]
    omega
  have hunits (j : Nat) : j * 2 ^ t * 2 ^ 1074 = j * 2 ^ s * 2 ^ d := by
    rw [Nat.mul_assoc, Nat.mul_assoc, ← Nat.pow_add, ← Nat.pow_add, ← hround.place, Nat.add_comm]
  have hdist (j : Nat) : Nat.dist (j * 2 ^ t * 2 ^ 1074) exact = Nat.dist (j * 2 ^ s) n' * 2 ^ d := by
    rw [hunits, hexact, ← hround.value, Nat.dist_mul_right]
  rw [hmag, hdist, hfrac]
  obtain ⟨j, hj⟩ | ⟨htpos, hsmall⟩ := f64Mag_multiple_or_lt y t
  · obtain ⟨hnear, htie⟩ := roundShift_nearest n' s j
    rw [hj, hdist]
    refine ⟨Nat.mul_le_mul_right _ hnear, fun heq => ?_⟩
    exact (htie (Nat.eq_of_mul_eq_mul_right (Nat.two_pow_pos d) heq)).imp_left fun h => by rw [h]
  · have hnear := Nat.mul_le_mul_right (2 ^ d) (roundShift_nearest n' s (2 ^ 52)).1
    have hnormal : 2 ^ 52 * 2 ^ t * 2 ^ 1074 ≤ exact := by
      rw [hunits, hexact, ← hround.value, ← Nat.pow_add, Nat.add_comm 52]
      exact Nat.mul_le_mul_right _ (hround.lower.resolve_left htpos)
    have hbelow : f64Mag y * 2 ^ 1074 < 2 ^ 52 * 2 ^ t * 2 ^ 1074 :=
      Nat.mul_lt_mul_of_pos_right hsmall (by positivity)
    have hstrict : Nat.dist (2 ^ 52 * 2 ^ t * 2 ^ 1074) exact < Nat.dist (f64Mag y * 2 ^ 1074) exact := by
      rw [Nat.dist_eq_sub_of_le hnormal, Nat.dist_eq_sub_of_le (hbelow.le.trans hnormal)]
      exact Nat.sub_lt_sub_left (hbelow.trans_le hnormal) hbelow
    rw [hdist] at hstrict
    exact ⟨by omega, by omega⟩

end Sys2Proof.Machine
end

section
/-! SUPPORT. Sums, differences and products as rounded exact values, and the statements of 42_eval.md R131. -/

namespace Sys2Proof.Machine

/-! ### Signed magnitudes -/

/-- A magnitude with a sign. -/
def withSign (neg : Bool) (n : Nat) : Int := if neg then -(n : Int) else n

theorem f64Units_eq (f : F64) : f64Units f = withSign (f64Sign f) (f64Mag f) := rfl

theorem f64At_eq (e : Nat) (f : F64) : f64At e f = withSign (f64Sign f) (f64Sig f * 2 ^ (f64Scale f - e)) := rfl

theorem withSign_false (n : Nat) : withSign false n = n := rfl

theorem withSign_true (n : Nat) : withSign true n = -n := rfl

@[simp] theorem withSign_zero (neg : Bool) : withSign neg 0 = 0 := by cases neg <;> rfl

theorem withSign_mul (neg neg' : Bool) (m n : Nat) :
    withSign neg m * withSign neg' n = withSign (neg != neg') (m * n) := by
  cases neg <;> cases neg' <;> simp [withSign]

theorem withSign_mul_two_pow (neg : Bool) (m k : Nat) : withSign neg m * 2 ^ k = withSign neg (m * 2 ^ k) := by
  cases neg <;> simp [withSign]

theorem withSign_neg (neg : Bool) (n : Nat) : withSign (!neg) n = -withSign neg n := by
  cases neg <;> simp [withSign]

theorem withSign_natAbs (z : Int) : withSign (decide (z < 0)) z.natAbs = z := by
  by_cases h : z < 0
  · rw [decide_eq_true h, withSign_true]
    omega
  · rw [decide_eq_false h, withSign_false]
    omega

theorem natAbs_withSign (neg : Bool) (n : Nat) : (withSign neg n).natAbs = n := by
  cases neg <;> simp [withSign]

theorem natAbs_withSign_sub (neg : Bool) (m n : Nat) : (withSign neg m - withSign neg n).natAbs = Nat.dist m n := by
  rw [Nat.dist]
  cases neg with
  | false =>
    rw [withSign_false, withSign_false]
    omega
  | true =>
    rw [withSign_true, withSign_true]
    omega

theorem natAbs_withSign_sub_of_ne {neg neg' : Bool} (h : neg ≠ neg') (m n : Nat) :
    (withSign neg m - withSign neg' n).natAbs = m + n := by
  obtain rfl : neg' = !neg := by cases neg <;> cases neg' <;> simp_all
  rw [withSign_neg, Int.sub_neg]
  cases neg with
  | false =>
    rw [withSign_false, withSign_false]
    omega
  | true =>
    rw [withSign_true, withSign_true]
    omega

/-! ### The nearest value -/

/-- `f` is as near to `exact`, counted in units of `2^-2148`, as any finite value, and even when another is as near
(42_eval.md R130). -/
def IsNearest (f : F64) (exact : Int) : Prop :=
  ∀ y : F64, (f64Units f * 2 ^ 1074 - exact).natAbs ≤ (f64Units y * 2 ^ 1074 - exact).natAbs ∧
    ((f64Units f * 2 ^ 1074 - exact).natAbs = (f64Units y * 2 ^ 1074 - exact).natAbs →
      f64Units y = f64Units f ∨ f64Frac f % 2 = 0)

theorem f64Units_mul_two_pow (f : F64) : f64Units f * 2 ^ 1074 = withSign (f64Sign f) (f64Mag f * 2 ^ 1074) := by
  rw [f64Units_eq, withSign_mul_two_pow]

theorem f64Mag_zero : f64Mag 0 = 0 := by decide

/-- A value of the other sign is no nearer than zero. -/
theorem isNearest_of_nonzero {n : Nat} (hn : n ≠ 0) {x : Int} (hx : -1074 ≤ x) {neg : Bool} {f : F64}
    (hf : f = f64Pack neg (roundBody n x)) (hfin : f64IsFinite f = true) {exact : Nat}
    (hexact : exact = n * 2 ^ (x + 1074).toNat) : IsNearest f (withSign neg exact) := by
  have hsign : f64Sign f = neg := by rw [hf, f64Sign_pack neg ((roundBody_le n x).trans_lt (by decide))]
  intro y
  obtain ⟨hnear, htie⟩ := f64Mag_nearest hn hx hf hfin hexact y
  rw [f64Units_mul_two_pow, f64Units_mul_two_pow, hsign, natAbs_withSign_sub, f64Units_eq, f64Units_eq, hsign]
  by_cases hy : f64Sign y = neg
  · rw [hy, natAbs_withSign_sub]
    exact ⟨hnear, fun heq => (htie heq).imp_left fun h => by rw [h]⟩
  · have hzero := (f64Mag_nearest hn hx hf hfin hexact 0).1
    rw [f64Mag_zero, Nat.zero_mul, Nat.dist_zero_left] at hzero
    rw [natAbs_withSign_sub_of_ne hy]
    refine ⟨hzero.trans (Nat.le_add_left _ _), fun heq => ?_⟩
    have hmul : f64Mag y * 2 ^ 1074 = 0 := by omega
    have hmag : f64Mag y = 0 := (Nat.mul_eq_zero.1 hmul).resolve_right (by positivity)
    rw [hmag, Nat.zero_mul, Nat.zero_add] at heq
    refine (htie (by rw [heq, hmag, Nat.zero_mul, Nat.dist_zero_left])).imp_left fun h => ?_
    rw [← h, hmag, withSign_zero, withSign_zero]

theorem f64Units_pack_zero (neg : Bool) : f64Units (f64Pack neg 0) = 0 := by cases neg <;> decide

theorem isNearest_pack_zero (neg : Bool) : IsNearest (f64Pack neg 0) 0 := by
  intro y
  rw [f64Units_pack_zero, Int.zero_mul, Int.sub_zero, Int.sub_zero]
  refine ⟨Nat.zero_le _, fun heq => .inl ?_⟩
  have hmul : f64Units y * 2 ^ 1074 = 0 := Int.natAbs_eq_zero.1 heq.symm
  exact (Int.mul_eq_zero.1 hmul).resolve_right (by positivity)

/-! ### Products -/

theorem f64IsNaN_of_isFinite {f : F64} (h : f64IsFinite f = true) : f64IsNaN f = false := by
  rw [f64IsFinite_iff] at h
  simp [f64IsNaN, h]

theorem f64IsInf_of_isFinite {f : F64} (h : f64IsFinite f = true) : f64IsInf f = false := by
  rw [f64IsFinite_iff] at h
  simp [f64IsInf, h]

/-- The product of finite values is zero or a rounded value. -/
theorem fmul_of_isFinite {a b : F64} (ha : f64IsFinite a = true) (hb : f64IsFinite b = true) :
    fmul a b = f64Pack (f64Sign a != f64Sign b)
      (if f64Sig a * f64Sig b = 0 then 0
       else roundBody (f64Sig a * f64Sig b) ((f64Scale a + f64Scale b : Nat) - 1074)) := by
  simp only [fmul, f64IsNaN_of_isFinite ha, f64IsNaN_of_isFinite hb, f64IsInf_of_isFinite ha, f64IsInf_of_isFinite hb,
    Bool.or_self, Bool.false_eq_true, if_false]
  split <;> rfl

/-- The exact product at the place where it is rounded. -/
theorem f64Mag_mul (a b : F64) : f64Mag a * f64Mag b =
    f64Sig a * f64Sig b * 2 ^ (((f64Scale a + f64Scale b : Nat) : Int) - 1074 + 1074).toNat := by
  rw [Int.sub_add_cancel, Int.toNat_natCast, Nat.pow_add, f64Mag, f64Mag]
  ring

theorem isNearest_fmul {a b : F64} (ha : f64IsFinite a = true) (hb : f64IsFinite b = true)
    (hfin : f64IsFinite (fmul a b) = true) : IsNearest (fmul a b) (f64Units a * f64Units b) := by
  have hmul := fmul_of_isFinite ha hb
  rw [f64Units_eq, f64Units_eq, withSign_mul]
  by_cases hzero : f64Sig a * f64Sig b = 0
  · rw [if_pos hzero] at hmul
    rw [hmul, f64Mag_mul, hzero, Nat.zero_mul, withSign_zero]
    exact isNearest_pack_zero _
  · rw [if_neg hzero] at hmul
    exact isNearest_of_nonzero hzero (by omega) hmul hfin (f64Mag_mul a b)

/-- Settles O31: the exact product is rounded once. -/
theorem productIsRoundedToNearest : Obligations.ProductIsRoundedToNearest := by
  unfold Obligations.ProductIsRoundedToNearest
  exact fun a b x ha hb _ hfin => isNearest_fmul ha hb hfin x

/-! ### Sums -/

/-- The sum of finite values is zero or a rounded value. -/
theorem fadd_of_isFinite {a b : F64} (ha : f64IsFinite a = true) (hb : f64IsFinite b = true) :
    fadd a b =
      if f64At (commonScale a b) a + f64At (commonScale a b) b = 0 then f64Pack (f64Sign a && f64Sign b) 0
      else f64Pack (decide (f64At (commonScale a b) a + f64At (commonScale a b) b < 0))
        (roundBody (f64At (commonScale a b) a + f64At (commonScale a b) b).natAbs (commonScale a b)) := by
  simp only [fadd, f64IsNaN_of_isFinite ha, f64IsNaN_of_isFinite hb, f64IsInf_of_isFinite ha, f64IsInf_of_isFinite hb,
    Bool.or_self, Bool.and_self, Bool.false_eq_true, if_false]

/-- A value at a place not above its own is the value. -/
theorem f64At_mul_two_pow {e : Nat} {f : F64} (h : f64Sig f = 0 ∨ e ≤ f64Scale f) : f64At e f * 2 ^ e = f64Units f := by
  have hmag : f64Sig f * 2 ^ (f64Scale f - e) * 2 ^ e = f64Mag f := by
    obtain hzero | hle := h
    · rw [f64Mag, hzero, Nat.zero_mul, Nat.zero_mul, Nat.zero_mul]
    · rw [Nat.mul_assoc, ← Nat.pow_add, Nat.sub_add_cancel hle, f64Mag]
  rw [f64At_eq, withSign_mul_two_pow, hmag, f64Units_eq]

theorem commonScale_le (a b : F64) : f64Sig a = 0 ∨ commonScale a b ≤ f64Scale a := by
  unfold commonScale
  split_ifs with ha hb
  · exact .inl ha
  · exact .inr le_rfl
  · exact .inr (Nat.min_le_left _ _)

/-- The exact sum at the place where it is rounded. -/
theorem f64At_add_mul_two_pow (a b : F64) :
    (f64At (commonScale a b) a + f64At (commonScale a b) b) * 2 ^ commonScale a b = f64Units a + f64Units b := by
  rw [Int.add_mul, f64At_mul_two_pow (commonScale_le a b),
    f64At_mul_two_pow (commonScale_comm b a ▸ commonScale_le b a)]

theorem isNearest_fadd {a b : F64} (ha : f64IsFinite a = true) (hb : f64IsFinite b = true)
    (hfin : f64IsFinite (fadd a b) = true) : IsNearest (fadd a b) ((f64Units a + f64Units b) * 2 ^ 1074) := by
  have hadd := fadd_of_isFinite ha hb
  have hsum := f64At_add_mul_two_pow a b
  generalize f64At (commonScale a b) a + f64At (commonScale a b) b = z at hadd hsum
  rw [← hsum]
  by_cases hzero : z = 0
  · rw [if_pos hzero] at hadd
    rw [hadd, hzero, Int.zero_mul, Int.zero_mul]
    exact isNearest_pack_zero _
  · rw [if_neg hzero] at hadd
    have hexact : z * 2 ^ commonScale a b * 2 ^ 1074 =
        withSign (decide (z < 0)) (z.natAbs * 2 ^ ((commonScale a b : Int) + 1074).toNat) := by
      rw [show ((commonScale a b : Int) + 1074).toNat = commonScale a b + 1074 by omega, ← withSign_mul_two_pow,
        withSign_natAbs, Int.mul_assoc, ← pow_add]
    rw [hexact]
    exact isNearest_of_nonzero (Int.natAbs_ne_zero.2 hzero) (by omega) hadd hfin rfl

/-! ### Differences -/

theorem f64Exp_fneg (b : F64) : f64Exp (fneg b) = f64Exp b := by
  rw [f64Exp, fneg, BitVec.extractLsb'_xor, f64Exp]
  simp

theorem f64Frac_fneg (b : F64) : f64Frac (fneg b) = f64Frac b := by
  rw [f64Frac, fneg, BitVec.extractLsb'_xor, f64Frac]
  simp

theorem f64Sign_fneg (b : F64) : f64Sign (fneg b) = !f64Sign b := by
  rw [f64Sign, fneg, BitVec.getLsbD_xor, f64Sign]
  simp

theorem f64Mag_fneg (b : F64) : f64Mag (fneg b) = f64Mag b := by
  simp only [f64Mag, f64Sig, f64Scale, f64Exp_fneg, f64Frac_fneg]

theorem f64Units_fneg (b : F64) : f64Units (fneg b) = -f64Units b := by
  rw [f64Units_eq, f64Sign_fneg, f64Mag_fneg, withSign_neg, f64Units_eq]

theorem f64IsFinite_fneg (b : F64) : f64IsFinite (fneg b) = f64IsFinite b := by
  rw [f64IsFinite, f64Exp_fneg, f64IsFinite]

/-- Values counted in units of `2^-1074` are as far apart as in the finer units, up to the factor. -/
theorem natAbs_mul_two_pow_sub (u v : Int) (k : Nat) : (u * 2 ^ k - v * 2 ^ k).natAbs = (u - v).natAbs * 2 ^ k := by
  rw [← Int.sub_mul, Int.natAbs_mul, Int.natAbs_pow]
  rfl

theorem nearest_of_isNearest {f : F64} {exact : Int} (h : IsNearest f (exact * 2 ^ 1074)) (y : F64) :
    (f64Units f - exact).natAbs ≤ (f64Units y - exact).natAbs ∧
      ((f64Units f - exact).natAbs = (f64Units y - exact).natAbs → f64Units y = f64Units f ∨ f64Frac f % 2 = 0) := by
  obtain ⟨hnear, htie⟩ := h y
  rw [natAbs_mul_two_pow_sub, natAbs_mul_two_pow_sub] at hnear htie
  exact ⟨Nat.le_of_mul_le_mul_right hnear (by positivity), fun heq => htie (by rw [heq])⟩

/-- Settles O30: the exact sum is rounded once, and a difference is a sum. -/
theorem sumIsRoundedToNearest : Obligations.SumIsRoundedToNearest := by
  unfold Obligations.SumIsRoundedToNearest
  refine fun a b x ha hb _ => ⟨fun hfin => nearest_of_isNearest (isNearest_fadd ha hb hfin) x, fun hfin => ?_⟩
  have hsub := isNearest_fadd ha ((f64IsFinite_fneg b).trans hb) hfin
  rw [f64Units_fneg, ← Int.sub_eq_add_neg] at hsub
  exact nearest_of_isNearest hsub x

/-! ### Small integers -/

theorem roundShift_zero (n : Nat) : roundShift n 0 = n :=
  le_antisymm (roundShift_le (by omega)) (le_roundShift (by omega))

/-- An integer of at most 53 bits is moved up to have 53. -/
theorem log2_normalised {n : Nat} (hn : n ≠ 0) (hlt : n < 2 ^ 53) : Nat.log2 (n * 2 ^ (52 - Nat.log2 n)) = 52 := by
  have hlog : Nat.log2 n < 53 := (Nat.log2_lt hn).2 hlt
  rw [log2_mul_two_pow hn]
  omega

/-- It loses no bit. -/
theorem roundBody_of_lt {n : Nat} (hn : n ≠ 0) (hlt : n < 2 ^ 53) :
    roundBody n 1074 = min ((1022 + Nat.log2 n) * 2 ^ 52 + n * 2 ^ (52 - Nat.log2 n)) infBody := by
  have hlog : Nat.log2 n < 53 := (Nat.log2_lt hn).2 hlt
  have hk : min (1074 : Int).toNat (52 - Nat.log2 n) = 52 - Nat.log2 n := by omega
  have hs : max (52 - 52) (-((1074 : Int) - (52 - Nat.log2 n : Nat))).toNat = 0 := by omega
  have ht : ((1074 : Int) - (52 - Nat.log2 n : Nat) + (0 : Nat)).toNat = 1022 + Nat.log2 n := by omega
  rw [roundBody, hk, log2_normalised hn hlt, hs, ht, roundShift_zero]

theorem f64OfNat_of_lt {n : Nat} (hlt : n < 2 ^ 53) :
    f64IsFinite (f64OfNat n) = true ∧ f64Sign (f64OfNat n) = false ∧ f64Mag (f64OfNat n) = n * 2 ^ 1074 := by
  by_cases hn : n = 0
  · subst hn
    rw [Nat.zero_mul]
    decide
  · have hlog : Nat.log2 n < 53 := (Nat.log2_lt hn).2 hlt
    obtain ⟨hlower, hupper⟩ := (Nat.log2_eq_iff (by positivity)).1 (log2_normalised hn hlt)
    have hfin : (1022 + Nat.log2 n) * 2 ^ 52 + n * 2 ^ (52 - Nat.log2 n) < infBody := by
      rw [infBody]
      omega
    rw [f64OfNat, if_neg hn, roundBody_of_lt hn hlt, Nat.min_eq_left hfin.le]
    refine ⟨(f64IsFinite_pack_iff false hfin.le).2 hfin, f64Sign_pack false (hfin.trans (by decide)), ?_⟩
    rw [f64Mag_pack false hupper.le (.inr hlower) hfin, Nat.mul_assoc, ← Nat.pow_add]
    congr 2
    omega

/-- Settles O32: an integer below `2^53` has at most 53 bits, so that rounding keeps it. -/
theorem smallIntegersAreExact : Obligations.SmallIntegersAreExact := by
  unfold Obligations.SmallIntegersAreExact
  intro n hlt
  obtain ⟨hfin, hsign, hmag⟩ := f64OfNat_of_lt hlt
  refine ⟨hfin, ?_⟩
  rw [f64Units_eq, hsign, hmag, ← withSign_mul_two_pow]
  rfl

end Sys2Proof.Machine
end

section
/-! SUPPORT. Bounds on the results of the arithmetic, and the statement of 40_table_generator.md R101 and 42_eval.md R131
that no score is a NaN or an infinity. -/

namespace Sys2Proof.Machine

/-- A finite value of magnitude at most `2^i`. -/
structure IsWithin (i : Nat) (f : F64) : Prop where
  finite : f64IsFinite f = true
  mag_le : f64Mag f ≤ 2 ^ (1074 + i)

theorem IsWithin.mono {i j : Nat} (hij : i ≤ j) {f : F64} (h : IsWithin i f) : IsWithin j f :=
  ⟨h.finite, h.mag_le.trans (Nat.pow_le_pow_right (by decide) (by omega))⟩

theorem isWithin_pack_zero (i : Nat) (neg : Bool) : IsWithin i (f64Pack neg 0) := by
  have hzero : f64IsFinite (f64Pack neg 0) = true ∧ f64Mag (f64Pack neg 0) = 0 := by cases neg <;> decide
  exact ⟨hzero.1, by rw [hzero.2]; exact Nat.zero_le _⟩

/-- What lies within a power of two far below the largest finite value is rounded to a value within it. -/
theorem isWithin_pack_roundBody {n : Nat} (hn : n ≠ 0) {x : Int} (hx : -1074 ≤ x) {i : Nat} (hi : i ≤ 1000)
    (h : n * 2 ^ (x + 1074).toNat ≤ 2 ^ (2148 + i)) (neg : Bool) : IsWithin i (f64Pack neg (roundBody n x)) := by
  obtain ⟨t, s, n', d, hround⟩ := exists_roundsAt hn hx
  rw [← hround.value] at h
  have hplace := hround.place
  have htop : t ≤ 1022 + i := by
    obtain rfl | hnormal := hround.lower
    · exact Nat.zero_le _
    · have hpow : 2 ^ (s + 52 + d) ≤ 2 ^ (2148 + i) := by
        rw [Nat.pow_add]
        exact (Nat.mul_le_mul_right _ hnormal).trans h
      have hexp := (Nat.pow_le_pow_iff_right (by decide)).1 hpow
      omega
  have hlt : t * 2 ^ 52 + roundShift n' s < infBody := by
    have hm := hround.significand_le
    rw [infBody]
    omega
  have hbound : roundShift n' s ≤ 2 ^ (1074 + i - t) := by
    refine roundShift_le (Nat.le_of_mul_le_mul_right (h.trans_eq ?_) (Nat.two_pow_pos d))
    rw [← Nat.pow_add, ← Nat.pow_add]
    congr 1
    omega
  constructor
  · rw [f64IsFinite_pack_iff neg (roundBody_le n x), hround.body]
    exact (Nat.min_le_left _ _).trans_lt hlt
  · rw [hround.mag_pack neg hlt]
    refine (Nat.mul_le_mul_right _ hbound).trans_eq ?_
    rw [← Nat.pow_add, Nat.sub_add_cancel (by omega)]

/-! ### The operations -/

theorem isWithin_fadd {i : Nat} (hi : i < 1000) {a b : F64} (ha : IsWithin i a) (hb : IsWithin i b) :
    IsWithin (i + 1) (fadd a b) := by
  have hadd := fadd_of_isFinite ha.finite hb.finite
  have hsum := f64At_add_mul_two_pow a b
  generalize f64At (commonScale a b) a + f64At (commonScale a b) b = z at hadd hsum
  rw [hadd]
  split_ifs with hzero
  · exact isWithin_pack_zero _ _
  · refine isWithin_pack_roundBody (Int.natAbs_ne_zero.2 hzero) (by omega) hi ?_ _
    calc z.natAbs * 2 ^ ((commonScale a b : Int) + 1074).toNat = z.natAbs * 2 ^ commonScale a b * 2 ^ 1074 := by
          rw [show ((commonScale a b : Int) + 1074).toNat = commonScale a b + 1074 by omega,
            pow_add, mul_assoc]
      _ = (f64Units a + f64Units b).natAbs * 2 ^ 1074 := by
          rw [← hsum, Int.natAbs_mul, Int.natAbs_pow, show Int.natAbs 2 = 2 from rfl]
      _ ≤ (2 ^ (1074 + i) + 2 ^ (1074 + i)) * 2 ^ 1074 := by
          refine Nat.mul_le_mul_right _ ((Int.natAbs_add_le _ _).trans ?_)
          rw [f64Units_eq, f64Units_eq, natAbs_withSign, natAbs_withSign]
          exact Nat.add_le_add ha.mag_le hb.mag_le
      _ = 2 ^ (2148 + (i + 1)) := by
          rw [← Nat.two_mul, ← Nat.pow_succ', ← Nat.pow_add]
          congr 1
          omega

theorem isWithin_fneg {i : Nat} {b : F64} (h : IsWithin i b) : IsWithin i (fneg b) :=
  ⟨(f64IsFinite_fneg b).trans h.finite, (f64Mag_fneg b).trans_le h.mag_le⟩

theorem isWithin_fsub {i : Nat} (hi : i < 1000) {a b : F64} (ha : IsWithin i a) (hb : IsWithin i b) :
    IsWithin (i + 1) (fsub a b) := isWithin_fadd hi ha (isWithin_fneg hb)

theorem isWithin_fmul {i j : Nat} (hij : i + j ≤ 1000) {a b : F64} (ha : IsWithin i a) (hb : IsWithin j b) :
    IsWithin (i + j) (fmul a b) := by
  rw [fmul_of_isFinite ha.finite hb.finite]
  split_ifs with hzero
  · exact isWithin_pack_zero _ _
  · refine isWithin_pack_roundBody hzero (by omega) hij ?_ _
    rw [← f64Mag_mul]
    refine (Nat.mul_le_mul ha.mag_le hb.mag_le).trans_eq ?_
    rw [← Nat.pow_add]
    congr 1
    omega

theorem isWithin_f64OfNat {n i : Nat} (hi : i ≤ 52) (h : n ≤ 2 ^ i) : IsWithin i (f64OfNat n) := by
  have hlt : n < 2 ^ 53 := (h.trans (Nat.pow_le_pow_right (by decide) hi)).trans_lt (by decide)
  obtain ⟨hfin, -, hmag⟩ := f64OfNat_of_lt hlt
  refine ⟨hfin, hmag.trans_le ?_⟩
  rw [add_comm, pow_add]
  exact Nat.mul_le_mul_right _ h

/-- The product of two small integers. -/
theorem isWithin_fmul_f64OfNat {m n i j : Nat} (hi : i ≤ 52) (hj : j ≤ 52) (hm : m ≤ 2 ^ i) (hn : n ≤ 2 ^ j) :
    IsWithin (i + j) (fmul (f64OfNat m) (f64OfNat n)) :=
  isWithin_fmul (by omega) (isWithin_f64OfNat hi hm) (isWithin_f64OfNat hj hn)

/-! ### The scores under the default configuration -/

/-- The exponent alone bounds a value. -/
theorem isWithin_of_f64Exp_le {i : Nat} (hi : i ≤ 1000) {f : F64} (h : f64Exp f ≤ 1022 + i) : IsWithin i f := by
  refine ⟨(f64IsFinite_iff f).2 (by omega), ?_⟩
  calc f64Sig f * 2 ^ f64Scale f ≤ 2 ^ 53 * 2 ^ f64Scale f := Nat.mul_le_mul_right _ (f64Sig_lt f).le
    _ = 2 ^ (53 + f64Scale f) := (Nat.pow_add _ _ _).symm
    _ ≤ 2 ^ (1074 + i) := Nat.pow_le_pow_right (by decide) (by rw [f64Scale]; omega)

theorem f64Exp_pow35_le : ∀ r : Rank, f64Exp (pow35 Config.default r) ≤ 1036 := by decide

theorem isWithin_pow35 (r : Rank) : IsWithin 14 (pow35 Config.default r) :=
  isWithin_of_f64Exp_le (by decide) (f64Exp_pow35_le r)

/-- A sum of four values of one bound, from the left. -/
theorem isWithin_heurSum (p : Pattern) : IsWithin 18 (heurSum Config.default p) := by
  have hpow (k : Nat) {i : Nat} (hi : 14 ≤ i) : IsWithin i (pow35 Config.default (nib p k)) :=
    (isWithin_pow35 _).mono hi
  have h1 := isWithin_fadd (i := 14) (by decide) (isWithin_pack_zero 14 false) (hpow 0 le_rfl)
  have h2 := isWithin_fadd (by decide) h1 (hpow 1 (by decide))
  have h3 := isWithin_fadd (by decide) h2 (hpow 2 (by decide))
  exact isWithin_fadd (by decide) h3 (hpow 3 (by decide))

theorem heurEmpty_le (p : Pattern) : heurEmpty p ≤ 4 := List.countP_le_length

theorem length_mergeCells_le (c : Config) (p : Pattern) : (mergeCells c p).length ≤ 4 := by
  unfold mergeCells
  split
  · exact length_tiles_le p
  · exact le_rfl

theorem heurMerges_le (c : Config) (p : Pattern) : heurMerges c p ≤ 4 := by
  rw [heurMerges_eq]
  exact List.countP_le_length.trans (List.length_range.trans_le (length_mergeCells_le c p))

theorem isWithin_heur (p : Pattern) : IsWithin 24 (heur Config.default p) := by
  obtain ⟨-, -, hbound, -⟩ := monotonicityIsBounded Config.default p rfl
  have hempty := isWithin_fmul_f64OfNat (m := Config.default.wEmpty) (i := 9) (j := 2) (by decide) (by decide) (by decide)
    (heurEmpty_le p)
  have hmerges := isWithin_fmul_f64OfNat (m := Config.default.wMerges) (i := 10) (j := 2) (by decide) (by decide)
    (by decide) (heurMerges_le Config.default p)
  have hmono := isWithin_fmul_f64OfNat (m := Config.default.wMono) (i := 6) (j := 16) (by decide) (by decide) (by decide)
    (hbound.trans (by decide))
  have hsum := isWithin_fmul (by decide)
    (isWithin_f64OfNat (n := Config.default.wSum) (i := 4) (by decide) (by decide)) (isWithin_heurSum p)
  have h0 := isWithin_f64OfNat (n := Config.default.wBase) (i := 18) (by decide) (by decide)
  have h1 := isWithin_fadd (by decide) h0 (hempty.mono (by decide))
  have h2 := isWithin_fadd (by decide) h1 (hmerges.mono (by decide))
  have h3 := isWithin_fsub (by decide) (h2.mono (show 20 ≤ 22 by decide)) hmono
  exact isWithin_fsub (by decide) h3 (hsum.mono (by decide))

theorem isWithin_sumFour {i : Nat} (hi : i < 997) {e0 e1 e2 e3 : F64} (h0 : IsWithin i e0) (h1 : IsWithin i e1)
    (h2 : IsWithin i e2) (h3 : IsWithin i e3) : IsWithin (i + 3) (sumFour e0 e1 e2 e3) := by
  have h01 := isWithin_fadd (by omega) h0 h1
  have h012 := isWithin_fadd (by omega) h01 (h2.mono (by omega))
  exact isWithin_fadd (by omega) h012 (h3.mono (by omega))

theorem isWithin_evalBoard (b : Board) : IsWithin 28 (evalBoard (tableEntry Config.default) b) :=
  isWithin_fadd (by decide)
    (isWithin_sumFour (by decide) (isWithin_heur _) (isWithin_heur _) (isWithin_heur _) (isWithin_heur _))
    (isWithin_sumFour (by decide) (isWithin_heur _) (isWithin_heur _) (isWithin_heur _) (isWithin_heur _))

/-- Settles O33: an entry is within `2^24`, and a score, the sum of eight entries, within `2^28`. -/
theorem scoresAreFinite : Obligations.ScoresAreFinite := by
  unfold Obligations.ScoresAreFinite
  exact ⟨fun p => (isWithin_heur p).finite, fun b => (isWithin_evalBoard b).finite⟩

end Sys2Proof.Machine
end
